-- ==== Sys2Proof/Word.lean ====
section
/-! DEFINITION. The word types of the block: octets, base32 symbols and Identifiers. -/

namespace Sys2Proof

/-- One octet: a character of `TXT`, a byte of `SLICE` or of an Identifier (00_scope.md R13). -/
abbrev Byte := BitVec 8

/-- A base32 symbol value 0..31 (00_scope.md R5, `SYMBOL_BITS`). -/
abbrev Symbol := BitVec 5

/-- The 16-byte Identifier (00_scope.md R5, `ID_BYTES`; 10_state.md R16). -/
abbrev Identifier := BitVec 128

end Sys2Proof
end

