-- ==== Sys2Proof/Syntax.lean ====
section
/-! DEFINITION. The commands of the block: one constructor per row of the opcode map (R56). -/

namespace Sys2Proof

/-- The ten commands (R56). No command carries a register number or an immediate (R55), so no
constructor has an argument. -/
inductive Instr where
  /-- ENC.L, word 0x01 (R83). -/
  | encL
  /-- ENC.U, word 0x11 (R84). -/
  | encU
  /-- DEC, word 0x02 (R85). -/
  | dec
  /-- PACK, word 0x03 (R65). -/
  | pack
  /-- MILLIS, word 0x04 (R66). -/
  | millis
  /-- PACKF, word 0x05 (R67). -/
  | packF
  /-- UNPACKF, word 0x06 (R68). -/
  | unpackF
  /-- FROMINT, word 0x07 (R69). -/
  | fromInt
  /-- TOINT, word 0x08 (R70). -/
  | toInt
  /-- FROMSLICE, word 0x09 (R71). -/
  | fromSlice
  deriving DecidableEq, Repr

end Sys2Proof
end

