-- ==== Sys2Proof/Decode.lean ====
section
/-! DEFINITION. The command word (30_encoding.md): its fields, the decoder, total on all 256 words, and
the encoder. -/

namespace Sys2Proof

/-- `OP`, bits 3:0 (R51). -/
def opField (w : BitVec 8) : BitVec 4 := w.extractLsb' 0 4

/-- `CASE`, bit 4 (R51). -/
def caseField (w : BitVec 8) : BitVec 1 := w.extractLsb' 4 1

/-- `RSV`, bits 7:5 (R51). -/
def rsvField (w : BitVec 8) : BitVec 3 := w.extractLsb' 5 3

/-- Why a word is reserved: the four kinds that R58 counts (log entry 9). -/
inductive ReservedWord where
  /-- `RSV` is not 0: 224 words (R54). -/
  | rsvNonzero
  /-- `OP` is 0: 2 words (R52). -/
  | opZero
  /-- `OP` is 0xA..0xF: 12 words (R52). -/
  | opUnassigned
  /-- `CASE` is 1 and the operation is not the encoder: 8 words (R53). -/
  | caseNotEncoder
  deriving DecidableEq, Repr

/-- The operation that `OP` selects when `CASE` is 0 (R52, R56). -/
def packerOrDecoder (op : BitVec 4) : Except ReservedWord Instr :=
  if op = 0x2#4 then .ok .dec
  else if op = 0x3#4 then .ok .pack
  else if op = 0x4#4 then .ok .millis
  else if op = 0x5#4 then .ok .packF
  else if op = 0x6#4 then .ok .unpackF
  else if op = 0x7#4 then .ok .fromInt
  else if op = 0x8#4 then .ok .toInt
  else if op = 0x9#4 then .ok .fromSlice
  else .error .opUnassigned

/-- Decoding a command word (R57), by its fields: total, and every reserved word (R58) refused with the
reason it is reserved. -/
def decode (w : BitVec 8) : Except ReservedWord Instr :=
  if rsvField w ≠ 0 then .error .rsvNonzero
  else if opField w = 0 then .error .opZero
  else if opField w = 1 then .ok (if caseField w = 0 then .encL else .encU)
  else if 9 < (opField w).toNat then .error .opUnassigned
  else if caseField w = 1 then .error .caseNotEncoder
  else packerOrDecoder (opField w)

/-- A command word put together from its fields, `RSV` first (R51). -/
def commandWord (rsv : BitVec 3) (case : BitVec 1) (op : BitVec 4) : BitVec 8 := rsv ++ case ++ op

/-- The word of a command, from the columns `OP`, `CASE` and `RSV` of R56. -/
def encode (i : Instr) : BitVec 8 :=
  match i with
  | .encL => commandWord 0 0 0x1
  | .encU => commandWord 0 1 0x1
  | .dec => commandWord 0 0 0x2
  | .pack => commandWord 0 0 0x3
  | .millis => commandWord 0 0 0x4
  | .packF => commandWord 0 0 0x5
  | .unpackF => commandWord 0 0 0x6
  | .fromInt => commandWord 0 0 0x7
  | .toInt => commandWord 0 0 0x8
  | .fromSlice => commandWord 0 0 0x9

/-- The command read from a table word of `nbits` bits: a command word is exactly 8 bits (R51, R60),
so a word with any bit above them is none. -/
def decodeTableWord (nbits w : Nat) : Option Instr :=
  if nbits ≤ 8 ∧ w < 256 then
    match decode (BitVec.ofNat 8 w) with
    | .ok i => some i
    | .error _ => none
  else none

end Sys2Proof
end

