-- ==== Sys2Proof/Config.lean ====
section
/-! DEFINITION. The fixed sizes of the hardware (R5) and the parameters a model takes (R6, R7). -/

namespace Sys2Proof.Config

/-- `TXT_CHARS` (R5): a text has 26 characters. -/
def txtChars : Nat := 26

/-- `SLICE_EXPECTED` (R5): the one length FROMSLICE accepts. -/
def sliceExpected : Nat := 16

/-- `GROUP_BYTES` (R5): the encoder takes 5 bytes at a time. -/
def groupBytes : Nat := 5

/-- `GROUP_SYMBOLS` (R5): a group gives 8 symbols, and the decoder takes 8 characters at a time. -/
def groupSymbols : Nat := 8

/-- `INV_WINDOW` (R5): the inverse table has 43 entries, the first for `'0'`. -/
def inverseWindow : Nat := 43

/-- The parameters of one block: fixed for the machine, and held in the state as data, so that a
statement about every state is a statement about every implementation (log entries 3, 4 and 15). -/
structure Params where
  /-- `LEN_WIDTH` (R6): the width of `TXT_LEN`, `SLICE_LEN` and `ERR_FOUND`. -/
  lenWidth : Nat
  /-- `O_ALIAS` (R7): whether `O` and `o` decode to 0. -/
  oAlias : Bool
  deriving DecidableEq, Repr

/-- The spec's defaults: `LEN_WIDTH` 32 (R6), `O_ALIAS` true (R7). -/
def Params.default : Params := { lenWidth := 32, oAlias := true }

end Sys2Proof.Config
end

