-- ==== Sys2Proof/Machine/Codec.lean ====
section
/-! DEFINITION. The constant tables of the codec and the bit arithmetic of the encoder and the decoder
(41_codec.md R78 to R82, R87 to R89), and the octets of characters (00_scope.md R13). -/

namespace Sys2Proof.Machine

/-- The octet of an ASCII character (R13). -/
def octet (c : Char) : Byte := BitVec.ofNat 8 c.toNat

/-- `byte(V, k)` (R9): byte `k` of a value of the given width, byte 0 the most significant. -/
def byteAt {width : Nat} (v : BitVec width) (k : Nat) : Byte := v.extractLsb' (width - 8 * (k + 1)) 8

/-- The 16 bytes of an Identifier, byte 0 first (R16). -/
def identifierBytes (v : Identifier) : List Byte := (List.range 16).map (byteAt v)

/-- `b0 ++ b1 ++ ...` as a 128-bit value: the first byte of sixteen is the most significant (R9, R71). -/
def joinBytes (bs : List Byte) : BitVec 128 :=
  bs.foldl (fun acc b => (acc <<< 8) ||| b.setWidth 128) 0

/-- `fold(c)` (R13): ASCII upper-case folding. -/
def fold (c : Byte) : Byte := if 0x61 ≤ c.toNat ∧ c.toNat ≤ 0x7A then c - 0x20 else c

/-- The alphabet UPPER of R78. -/
def upperAlphabet : List Byte :=
  (['0', '1', '2', '3', '4', '5', '6', '7', '8', '9', 'A', 'B', 'C', 'D', 'E', 'F'] ++
   ['G', 'H', 'J', 'K', 'M', 'N', 'P', 'Q', 'R', 'S', 'T', 'V', 'W', 'X', 'Y', 'Z']).map octet

/-- The alphabet LOWER of R78. -/
def lowerAlphabet : List Byte :=
  (['0', '1', '2', '3', '4', '5', '6', '7', '8', '9', 'a', 'b', 'c', 'd', 'e', 'f'] ++
   ['g', 'h', 'j', 'k', 'm', 'n', 'p', 'q', 'r', 's', 't', 'v', 'w', 'x', 'y', 'z']).map octet

/-- The character an alphabet gives a symbol: `UPPER[v]` or `LOWER[v]` (R78). -/
def symbolChar (alphabet : List Byte) (v : Symbol) : Byte := alphabet.getD v.toNat 0

/-- The inverse table `INV[0..42]` (R79), `none` for the sentinel -1: the digits, the seven octets `:` to
`@`, `A` to `H`, `I` to `O`, `P` to `T`, `U`, and `V` to `Z`. Only `O` depends on a parameter. -/
def inverseTable (oAlias : Bool) : List (Option Symbol) :=
  [some 0, some 1, some 2, some 3, some 4, some 5, some 6, some 7, some 8, some 9] ++
  [none, none, none, none, none, none, none] ++
  [some 10, some 11, some 12, some 13, some 14, some 15, some 16, some 17] ++
  [some 1, some 18, some 19, some 1, some 20, some 21, if oAlias then some 0 else none] ++
  [some 22, some 23, some 24, some 25, some 26] ++
  [none] ++
  [some 27, some 28, some 29, some 30, some 31]

/-- `lookup(c)` (R80): the symbol value of an octet, or `none` where it is invalid. -/
def lookup (oAlias : Bool) (c : Byte) : Option Symbol :=
  if 0x80 ≤ c.toNat then none
  else if (fold c).toNat < 0x30 then none
  else if 42 < (fold c).toNat - 0x30 then none
  else (inverseTable oAlias).getD ((fold c).toNat - 0x30) none

/-- `rem` of R81: how many of the group's five bytes the Identifier has. -/
def groupRem (g : Nat) : Nat := min Config.groupBytes (16 - Config.groupBytes * g)

/-- `x[j]` of R81: byte `j` of group `g`, a missing trailing byte being zero. -/
def groupByte (b : List Byte) (g j : Nat) : Byte :=
  if j < groupRem g then b.getD (Config.groupBytes * g + j) 0 else 0

/-- `t[0..7]` of R81: the eight 5-bit windows of five bytes. Each fits 5 bits before it is narrowed (log
entry 13). -/
def windows (x0 x1 x2 x3 x4 : Byte) : List Symbol :=
  [ (x0 >>> 3).setWidth 5,
    (((x0 &&& 0x07) <<< 2) ||| (x1 >>> 6)).setWidth 5,
    ((x1 >>> 1) &&& 0x1F).setWidth 5,
    (((x1 &&& 0x01) <<< 4) ||| (x2 >>> 4)).setWidth 5,
    (((x2 &&& 0x0F) <<< 1) ||| (x3 >>> 7)).setWidth 5,
    ((x3 >>> 2) &&& 0x1F).setWidth 5,
    (((x3 &&& 0x03) <<< 3) ||| (x4 >>> 5)).setWidth 5,
    (x4 &&& 0x1F).setWidth 5 ]

/-- `keep` of R81, with the `floor` formula that 90_conflicts.md C1 settles on. -/
def groupKeep (rem : Nat) : Nat :=
  if rem = Config.groupBytes then Config.groupSymbols
  else Config.groupSymbols - (Config.groupSymbols - (rem * 8 + 4) / 5)

/-- The symbols of group `g` (R81). -/
def encodeGroup (b : List Byte) (g : Nat) : List Symbol :=
  (windows (groupByte b g 0) (groupByte b g 1) (groupByte b g 2) (groupByte b g 3)
    (groupByte b g 4)).take (groupKeep (groupRem g))

/-- `encode_symbols` (R81): the 26 symbols of 16 bytes. -/
def encodeSymbols (b : List Byte) : List Symbol := [0, 1, 2, 3].flatMap (encodeGroup b)

/-- The text of an Identifier in an alphabet: `TXT[i] <- alphabet[s[i]]` for `i` in 0..25 (R83, R84). -/
def encodeText (alphabet : List Byte) (v : Identifier) : Vector Byte 26 :=
  Vector.ofFn fun i => symbolChar alphabet ((encodeSymbols (identifierBytes v)).getD i.val 0)

/-- `chunk_bytes` (R88): five bytes from eight symbol values. Shifting in 8 bits is R88's `mod 256`. -/
def chunkBytes (v0 v1 v2 v3 v4 v5 v6 v7 : Symbol) : List Byte :=
  [ (v0.setWidth 8 <<< 3) ||| (v1.setWidth 8 >>> 2),
    (v1.setWidth 8 <<< 6) ||| (v2.setWidth 8 <<< 1) ||| (v3.setWidth 8 >>> 4),
    (v3.setWidth 8 <<< 4) ||| (v4.setWidth 8 >>> 1),
    (v4.setWidth 8 <<< 7) ||| (v5.setWidth 8 <<< 2) ||| (v6.setWidth 8 >>> 3),
    (v6.setWidth 8 <<< 5) ||| v7.setWidth 8 ]

/-- The five bytes of chunk `k` (R85); a value from position 26 on is 0. -/
def decodeChunk (val : List Symbol) (k : Nat) : List Byte :=
  chunkBytes (val.getD (8 * k) 0) (val.getD (8 * k + 1) 0) (val.getD (8 * k + 2) 0)
    (val.getD (8 * k + 3) 0) (val.getD (8 * k + 4) 0) (val.getD (8 * k + 5) 0)
    (val.getD (8 * k + 6) 0) (val.getD (8 * k + 7) 0)

/-- `out[0..19]` of R85. -/
def decodeBytes (val : List Symbol) : List Byte := [0, 1, 2, 3].flatMap (decodeChunk val)

/-- The Identifier of 26 symbol values: the first 16 of the 20 bytes (R89). -/
def decodeIdentifier (val : List Symbol) : Identifier := joinBytes ((decodeBytes val).take 16)

/-- The character scan of R87, from position `p` on: the values of all characters, or the first invalid
character with its position. -/
def scanFrom (oAlias : Bool) (p : Nat) (cs : List Byte) : Except (Byte × Nat) (List Symbol) :=
  match cs with
  | [] => .ok []
  | c :: rest =>
    match lookup oAlias c with
    | none => .error (c, p)
    | some v =>
      match scanFrom oAlias (p + 1) rest with
      | .ok vs => .ok (v :: vs)
      | .error e => .error e

/-- How many characters the scan reads: up to and including the first invalid one (R85, R87). -/
def scanLength (oAlias : Bool) (cs : List Byte) : Nat :=
  match cs with
  | [] => 0
  | c :: rest =>
    match lookup oAlias c with
    | none => 1
    | some _ => scanLength oAlias rest + 1

end Sys2Proof.Machine
end

