-- ==== Sys2Proof/Machine/Flags.lean ====
section
/-! DEFINITION. The status register (10_state.md R25 to R28): its layout, the outcomes of a command and
what each outcome writes. The block has no other flag (R31). -/

namespace Sys2Proof.Machine

/-- The outcomes of a command, each with what it records (R26, R96). -/
inductive CommandStatus where
  /-- Code 0: the command succeeded. -/
  | ok
  /-- Code 1: DEC with a `TXT_LEN` other than 26 (R97). -/
  | invalidLength (found : Nat)
  /-- Code 2: DEC at an invalid character (R98). -/
  | invalidCharacter (char : Byte) (index : BitVec 3)
  /-- Code 3: FROMSLICE with a `SLICE_LEN` other than 16 (R99). -/
  | bytesError (found : Nat)
  /-- Code 4: a reserved command word (R100). -/
  | illegalCommand (w : BitVec 8)
  deriving DecidableEq, Repr

/-- `STATUS` laid out from its fields (R25): bits 31:24 and 7:6 are reserved and 0. -/
def statusWord (kind index : BitVec 3) (char expected : BitVec 8) : BitVec 32 :=
  0#8 ++ expected ++ char ++ 0#2 ++ index ++ kind

/-- `STATUS.KIND`, bits 2:0. -/
def kindOf (st : BitVec 32) : BitVec 3 := st.extractLsb' 0 3

/-- `STATUS.INDEX`, bits 5:3. -/
def indexOf (st : BitVec 32) : BitVec 3 := st.extractLsb' 3 3

/-- The reserved bits 7:6 of `STATUS`. -/
def reservedLow (st : BitVec 32) : BitVec 2 := st.extractLsb' 6 2

/-- `STATUS.CHAR`, bits 15:8. -/
def charOf (st : BitVec 32) : BitVec 8 := st.extractLsb' 8 8

/-- `STATUS.EXPECTED`, bits 23:16. -/
def expectedOf (st : BitVec 32) : BitVec 8 := st.extractLsb' 16 8

/-- The reserved bits 31:24 of `STATUS`. -/
def reservedHigh (st : BitVec 32) : BitVec 8 := st.extractLsb' 24 8

/-- The `STATUS` an outcome writes: its code and the fields it carries, every other field 0 (R26, R28). -/
def CommandStatus.word (k : CommandStatus) : BitVec 32 :=
  match k with
  | .ok => statusWord 0 0 0 0
  | .invalidLength _ => statusWord 1 0 0 0
  | .invalidCharacter char index => statusWord 2 index char 0
  | .bytesError _ => statusWord 3 0 0 16
  | .illegalCommand _ => statusWord 4 0 0 0

/-- The `ERR_FOUND` an outcome writes (R27): the rejected length, the zero-extended command word, or 0. -/
def CommandStatus.found (k : CommandStatus) : Nat :=
  match k with
  | .ok => 0
  | .invalidLength n => n
  | .invalidCharacter _ _ => 0
  | .bytesError n => n
  | .illegalCommand w => w.toNat

end Sys2Proof.Machine
end

