-- ==== Sys2Proof/Machine/Port.lean ====
section
/-! DEFINITION. The host port: the registers it names, the values it carries and the inputs of a run
(20_memory.md R36 to R39, 70_reset_and_hazards.md R112, R121). -/

namespace Sys2Proof.Machine

/-- The registers and array elements the host port names (R37): the data registers of R14, `STATUS`
and `ERR_FOUND`. Registers are named, not addressed (R36). -/
inductive PortReg where
  | id | ts | rnd | f1 | f2 | f3 | f4 | f5 | u | txtLen | sliceLen
  | txt (i : Fin 26)
  | slice (i : Fin 16)
  | status | errFound
  deriving DecidableEq, Repr

/-- A register together with a value of its width: what a host write carries (R38) and what a host
read returns (R39). The three `LEN_WIDTH`-bit registers carry a number, whose width `PortValue.fits`
checks (log entry 3). -/
inductive PortValue where
  | id (v : BitVec 128) | ts (v : BitVec 64) | rnd (v : BitVec 80)
  | f1 (v : BitVec 32) | f2 (v : BitVec 16) | f3 (v : BitVec 16) | f4 (v : BitVec 32) | f5 (v : BitVec 32)
  | u (v : BitVec 128)
  | txtLen (v : Nat) | sliceLen (v : Nat)
  | txt (i : Fin 26) (v : Byte)
  | slice (i : Fin 16) (v : Byte)
  | status (v : BitVec 32) | errFound (v : Nat)
  deriving DecidableEq, Repr

/-- One input of a run: the three host-port operations of R37, and the reset of R112, which is taken
between them (log entry 7). -/
inductive PortInput where
  /-- `HOST_WRITE(r, v)` (R38). -/
  | write (v : PortValue)
  /-- `HOST_READ(r)` (R39). -/
  | read (r : PortReg)
  /-- `ISSUE(w)` (R37, R51). -/
  | issue (w : BitVec 8)
  /-- The reset of R112. -/
  | reset
  deriving DecidableEq, Repr

/-- The register a port value belongs to. -/
def PortValue.reg (v : PortValue) : PortReg :=
  match v with
  | .id _ => .id
  | .ts _ => .ts
  | .rnd _ => .rnd
  | .f1 _ => .f1
  | .f2 _ => .f2
  | .f3 _ => .f3
  | .f4 _ => .f4
  | .f5 _ => .f5
  | .u _ => .u
  | .txtLen _ => .txtLen
  | .sliceLen _ => .sliceLen
  | .txt i _ => .txt i
  | .slice i _ => .slice i
  | .status _ => .status
  | .errFound _ => .errFound

/-- Whether the value has its register's width (R38: "`v` has exactly the register's width"). Only the
registers whose width is `LEN_WIDTH` can fail it. -/
def PortValue.fits (p : Config.Params) (v : PortValue) : Bool :=
  match v with
  | .txtLen n => decide (n < 2 ^ p.lenWidth)
  | .sliceLen n => decide (n < 2 ^ p.lenWidth)
  | .errFound n => decide (n < 2 ^ p.lenWidth)
  | _ => true

end Sys2Proof.Machine
end

