-- ==== Sys2Proof/Machine/State.lean ====
section
/-! DEFINITION. The state of one block (10_state.md R14), the reasons a step can stop, and the state
after reset (R33, R112). -/

namespace Sys2Proof.Machine

/-- The written bits (R32): one per data register and one per element of `TXT` and `SLICE`. `STATUS` and
`ERR_FOUND` have none. -/
structure Written where
  id : Bool
  ts : Bool
  rnd : Bool
  f1 : Bool
  f2 : Bool
  f3 : Bool
  f4 : Bool
  f5 : Bool
  u : Bool
  txtLen : Bool
  sliceLen : Bool
  txt : Vector Bool 26
  slice : Vector Bool 16
  deriving DecidableEq, Repr

/-- No register written: the written bits after reset (R33). -/
def Written.none : Written :=
  { id := false, ts := false, rnd := false, f1 := false, f2 := false, f3 := false, f4 := false,
    f5 := false, u := false, txtLen := false, sliceLen := false,
    txt := Vector.replicate 26 false, slice := Vector.replicate 16 false }

/-- The state of one block instance (R14), with the model's own `params`, `port` and `reads`. -/
structure State where
  /-- The implementation parameters (R6, R7): the model's own field, changed by no step. -/
  params : Config.Params
  /-- `ID` (R16). -/
  id : BitVec 128
  /-- `TS` (R17), two's complement. -/
  ts : BitVec 64
  /-- `RND` (R18). -/
  rnd : BitVec 80
  /-- `F1` (R19). -/
  f1 : BitVec 32
  /-- `F2` (R19). -/
  f2 : BitVec 16
  /-- `F3` (R19). -/
  f3 : BitVec 16
  /-- `F4` (R19). -/
  f4 : BitVec 32
  /-- `F5` (R19). -/
  f5 : BitVec 32
  /-- `U` (R20). -/
  u : BitVec 128
  /-- `TXT[0..25]` (R21), the leftmost character first. -/
  txt : Vector Byte 26
  /-- `TXT_LEN` (R22), `LEN_WIDTH` bits. -/
  txtLen : Nat
  /-- `SLICE[0..15]` (R23), the first byte first. -/
  slice : Vector Byte 16
  /-- `SLICE_LEN` (R24), `LEN_WIDTH` bits. -/
  sliceLen : Nat
  /-- `STATUS` (R25). -/
  status : BitVec 32
  /-- `ERR_FOUND` (R27), `LEN_WIDTH` bits. -/
  errFound : Nat
  /-- The written bits (R32). -/
  written : Written
  /-- The inputs the host still presents, the first one next (R44, R121): the model's own field. -/
  port : List PortInput
  /-- The values the run's host reads returned, in order (R121): the model's own field. -/
  reads : List PortValue
  deriving DecidableEq, Repr

/-- Why a step stops with a fault: never. The block has no trap (R95), and an error is an outcome in
`STATUS` (R96). `model_fault(UNWRITTEN, r)` is "not hardware behaviour" (R12): it belongs to the spec's
model of a run, `modelPerform` in SpecModel.lean, and stops no step of the block (log entry 2). -/
inductive Fault : Type
  deriving DecidableEq, Repr

/-- Why a step is refused. -/
inductive Refusal where
  /-- Raised by an arm of `exec` for a command that has no meaning yet. Safe. -/
  | notModelled (mnemonic : String)
  /-- Raised by a host write whose value does not fit its `LEN_WIDTH`-bit register: it spells no host
  write (R38, 93_implementation_defined.md I10). Safe: the port carries no such value. -/
  | valueTooWide (r : PortReg)
  deriving DecidableEq, Repr

/-- The state after reset of a block with parameters `p` (R33, R112): `STATUS` and `ERR_FOUND` 0, every
written bit clear. DESIGN CHOICE: every data register holds 0, where R33 says "unspecified" (log entry
1). -/
def State.resetWith (p : Config.Params) : State :=
  { params := p, id := 0, ts := 0, rnd := 0, f1 := 0, f2 := 0, f3 := 0, f4 := 0, f5 := 0, u := 0,
    txt := Vector.replicate 26 0, txtLen := 0, slice := Vector.replicate 16 0, sliceLen := 0,
    status := 0, errFound := 0, written := Written.none, port := [], reads := [] }

/-- The machine right after reset, with the default parameters. -/
def State.reset : State := State.resetWith Config.Params.default

end Sys2Proof.Machine
end

