-- ==== Sys2Proof/Machine/Ops.lean ====
section
/-! DEFINITION. The named operations over the registers: reading, writing, the written bits, the status
write of every outcome, and the first unwritten register of a read order (R12, R28, R32, R35, R38). The block has no memory
(R36), takes no trap and returns from none (R95, R103): an error is `State.raise`. -/

namespace Sys2Proof.Machine

/-- The value of a register or element (R39). -/
def State.read (s : State) (r : PortReg) : PortValue :=
  match r with
  | .id => .id s.id
  | .ts => .ts s.ts
  | .rnd => .rnd s.rnd
  | .f1 => .f1 s.f1
  | .f2 => .f2 s.f2
  | .f3 => .f3 s.f3
  | .f4 => .f4 s.f4
  | .f5 => .f5 s.f5
  | .u => .u s.u
  | .txtLen => .txtLen s.txtLen
  | .sliceLen => .sliceLen s.sliceLen
  | .txt i => .txt i s.txt[i]
  | .slice i => .slice i s.slice[i]
  | .status => .status s.status
  | .errFound => .errFound s.errFound

/-- Whether a register or element holds a written value (R32). `STATUS` and `ERR_FOUND` always do. -/
def State.isWritten (s : State) (r : PortReg) : Bool :=
  match r with
  | .id => s.written.id
  | .ts => s.written.ts
  | .rnd => s.written.rnd
  | .f1 => s.written.f1
  | .f2 => s.written.f2
  | .f3 => s.written.f3
  | .f4 => s.written.f4
  | .f5 => s.written.f5
  | .u => s.written.u
  | .txtLen => s.written.txtLen
  | .sliceLen => s.written.sliceLen
  | .txt i => s.written.txt[i]
  | .slice i => s.written.slice[i]
  | .status => true
  | .errFound => true

/-- `ID <- v`, whole (R16), and its written bit (R32). -/
def State.writeId (s : State) (v : BitVec 128) : State :=
  { s with id := v, written := { s.written with id := true } }

/-- `TS <- v` (R17, R32). -/
def State.writeTs (s : State) (v : BitVec 64) : State :=
  { s with ts := v, written := { s.written with ts := true } }

/-- `RND <- v` (R18, R32). -/
def State.writeRnd (s : State) (v : BitVec 80) : State :=
  { s with rnd := v, written := { s.written with rnd := true } }

/-- `F1 <- v` (R19, R32). -/
def State.writeF1 (s : State) (v : BitVec 32) : State :=
  { s with f1 := v, written := { s.written with f1 := true } }

/-- `F2 <- v` (R19, R32). -/
def State.writeF2 (s : State) (v : BitVec 16) : State :=
  { s with f2 := v, written := { s.written with f2 := true } }

/-- `F3 <- v` (R19, R32). -/
def State.writeF3 (s : State) (v : BitVec 16) : State :=
  { s with f3 := v, written := { s.written with f3 := true } }

/-- `F4 <- v` (R19, R32). -/
def State.writeF4 (s : State) (v : BitVec 32) : State :=
  { s with f4 := v, written := { s.written with f4 := true } }

/-- `F5 <- v` (R19, R32). -/
def State.writeF5 (s : State) (v : BitVec 32) : State :=
  { s with f5 := v, written := { s.written with f5 := true } }

/-- `U <- v` (R20, R32). -/
def State.writeU (s : State) (v : BitVec 128) : State :=
  { s with u := v, written := { s.written with u := true } }

/-- `TXT_LEN <- n` (R22, R32). -/
def State.writeTxtLen (s : State) (n : Nat) : State :=
  { s with txtLen := n, written := { s.written with txtLen := true } }

/-- `SLICE_LEN <- n` (R24, R32). -/
def State.writeSliceLen (s : State) (n : Nat) : State :=
  { s with sliceLen := n, written := { s.written with sliceLen := true } }

/-- `TXT[i] <- v`, that element only (R38). -/
def State.writeTxtAt (s : State) (i : Fin 26) (v : Byte) : State :=
  { s with txt := s.txt.set i v, written := { s.written with txt := s.written.txt.set i true } }

/-- All of `TXT`, with all 26 written bits (R32). -/
def State.writeTxt (s : State) (v : Vector Byte 26) : State :=
  { s with txt := v, written := { s.written with txt := Vector.replicate 26 true } }

/-- `SLICE[i] <- v`, that element only (R38). -/
def State.writeSliceAt (s : State) (i : Fin 16) (v : Byte) : State :=
  { s with slice := s.slice.set i v, written := { s.written with slice := s.written.slice.set i true } }

/-- `HOST_WRITE(r, v)` (R38): the whole register or the one element, and its written bit. A write to
`STATUS` or `ERR_FOUND` is ignored (R29). -/
def State.hostWrite (s : State) (v : PortValue) : State :=
  match v with
  | .id x => s.writeId x
  | .ts x => s.writeTs x
  | .rnd x => s.writeRnd x
  | .f1 x => s.writeF1 x
  | .f2 x => s.writeF2 x
  | .f3 x => s.writeF3 x
  | .f4 x => s.writeF4 x
  | .f5 x => s.writeF5 x
  | .u x => s.writeU x
  | .txtLen n => s.writeTxtLen n
  | .sliceLen n => s.writeSliceLen n
  | .txt i x => s.writeTxtAt i x
  | .slice i x => s.writeSliceAt i x
  | .status _ => s
  | .errFound _ => s

/-- The value a host read returned joins the values the run has read, in order (R121). -/
def State.recordRead (s : State) (v : PortValue) : State := { s with reads := s.reads ++ [v] }

/-- `set_status` (R12, R28): all of `STATUS` and `ERR_FOUND`, in one action. -/
def State.setStatus (s : State) (k : CommandStatus) : State :=
  { s with status := k.word, errFound := k.found }

/-- `raise` (R12): the status of the failure, and no other write. This is the block's whole reaction to
an error: nothing is saved and control goes nowhere (R95). -/
def State.raise (s : State) (k : CommandStatus) : State := s.setStatus k

/-- The first register of a read order whose written bit is clear (R35, R101). -/
def State.firstUnwritten (s : State) (order : List PortReg) : Option PortReg :=
  order.find? fun r => !s.isWritten r

end Sys2Proof.Machine
end

