-- ==== Sys2Proof/Machine/Operands.lean ====
section
/-! DEFINITION. The implicit operands and results of every command (30_encoding.md R55), and the bit
fields the packer moves (40_packer.md). -/

namespace Sys2Proof.Machine

/-- The characters DEC reaches once `TXT_LEN` is 26: up to and including the first invalid one (R85). -/
def State.scannedText (s : State) : List PortReg :=
  ((List.finRange 26).map PortReg.txt).take (scanLength s.params.oAlias s.txt.toList)

/-- The registers a command reads, in order: the column `reads` of R55. -/
def operands (i : Instr) (s : State) : List PortReg :=
  match i with
  | .encL => [.id]
  | .encU => [.id]
  | .dec => if s.txtLen = Config.txtChars then .txtLen :: s.scannedText else [.txtLen]
  | .pack => [.ts, .rnd]
  | .millis => [.id]
  | .packF => [.f1, .f2, .f3, .f4, .f5]
  | .unpackF => [.id]
  | .fromInt => [.u]
  | .toInt => [.id]
  | .fromSlice =>
    if s.sliceLen = Config.sliceExpected then .sliceLen :: (List.finRange 16).map PortReg.slice
    else [.sliceLen]

/-- The data registers a command may write: the column `writes` of R55. Every command also writes
`STATUS` and `ERR_FOUND` (R28). -/
def results (i : Instr) : List PortReg :=
  match i with
  | .encL => (List.finRange 26).map PortReg.txt ++ [.txtLen]
  | .encU => (List.finRange 26).map PortReg.txt ++ [.txtLen]
  | .dec => [.id]
  | .pack => [.id]
  | .millis => [.ts]
  | .packF => [.id]
  | .unpackF => [.f1, .f2, .f3, .f4, .f5]
  | .fromInt => [.id]
  | .toInt => [.u]
  | .fromSlice => [.id]

/-- The Identifier of a timestamp and a random payload: `t[47:0] ++ r` (R65). -/
def packTimestamp (ts : BitVec 64) (rnd : BitVec 80) : Identifier := ts.extractLsb' 0 48 ++ rnd

/-- The timestamp of an Identifier: `sext_64(ID[127:80])` (R66). -/
def timestampOf (v : Identifier) : BitVec 64 := (v.extractLsb' 80 48).signExtend 64

/-- The Identifier of a field tuple: `F1 ++ F2 ++ F3 ++ F4 ++ F5` (R67). -/
def packFields (f1 : BitVec 32) (f2 f3 : BitVec 16) (f4 f5 : BitVec 32) : Identifier :=
  f1 ++ f2 ++ f3 ++ f4 ++ f5

/-- `ID[127:96]` (R68). -/
def fieldF1 (v : Identifier) : BitVec 32 := v.extractLsb' 96 32

/-- `ID[95:80]` (R68). -/
def fieldF2 (v : Identifier) : BitVec 16 := v.extractLsb' 80 16

/-- `ID[79:64]` (R68). -/
def fieldF3 (v : Identifier) : BitVec 16 := v.extractLsb' 64 16

/-- `ID[63:32]` (R68). -/
def fieldF4 (v : Identifier) : BitVec 32 := v.extractLsb' 32 32

/-- `ID[31:0]` (R68). -/
def fieldF5 (v : Identifier) : BitVec 32 := v.extractLsb' 0 32

end Sys2Proof.Machine
end

