-- ==== Sys2Proof/Machine/Base32.lean ====
section
/-! DEFINITION. The base32 encoder and decoder commands (41_codec.md R83 to R91). -/

namespace Sys2Proof.Machine

/-- What ENC.L and ENC.U share: all of `TXT`, `TXT_LEN <- 26`, OK (R83, R84). -/
def State.encoded (s : State) (alphabet : List Byte) : State :=
  ((s.writeTxt (encodeText alphabet s.id)).writeTxtLen Config.txtChars).setStatus .ok

/-- ENC.L (R83). -/
def execEncL (s : State) : Host.Outcome State Fault Refusal :=
  .next (s.encoded lowerAlphabet)

/-- ENC.U (R84). -/
def execEncU (s : State) : Host.Outcome State Fault Refusal :=
  .next (s.encoded upperAlphabet)

/-- What DEC leaves (R85): the length first and alone (R86), then the scan (R87), then
the 16 bytes (R88, R89). A failure writes no result register (R91). -/
def State.decoded (s : State) : State :=
  if s.txtLen ≠ Config.txtChars then s.raise (.invalidLength s.txtLen)
  else
    match scanFrom s.params.oAlias 0 s.txt.toList with
    | .error (c, p) => s.raise (.invalidCharacter c (BitVec.ofNat 3 (p % Config.groupSymbols)))
    | .ok val => (s.writeId (decodeIdentifier val)).setStatus .ok

/-- DEC (R85). -/
def execDec (s : State) : Host.Outcome State Fault Refusal :=
  .next s.decoded

end Sys2Proof.Machine
end

