-- ==== Sys2Proof/Machine/Packer.lean ====
section
/-! DEFINITION. The bit-field packer commands (40_packer.md R65 to R72). -/

namespace Sys2Proof.Machine

/-- PACK (R65): the low 48 bits of `TS`, then `RND`; a timestamp out of range is truncated. -/
def execPack (s : State) : Host.Outcome State Fault Refusal :=
  .next ((s.writeId (packTimestamp s.ts s.rnd)).setStatus .ok)

/-- MILLIS (R66). -/
def execMillis (s : State) : Host.Outcome State Fault Refusal :=
  .next ((s.writeTs (timestampOf s.id)).setStatus .ok)

/-- PACKF (R67). -/
def execPackF (s : State) : Host.Outcome State Fault Refusal :=
  .next ((s.writeId (packFields s.f1 s.f2 s.f3 s.f4 s.f5)).setStatus .ok)

/-- The five field registers, written from an Identifier (R68). -/
def State.writeFields (s : State) (v : Identifier) : State :=
  ((((s.writeF1 (fieldF1 v)).writeF2 (fieldF2 v)).writeF3 (fieldF3 v)).writeF4 (fieldF4 v)).writeF5
    (fieldF5 v)

/-- UNPACKF (R68). -/
def execUnpackF (s : State) : Host.Outcome State Fault Refusal :=
  .next ((s.writeFields s.id).setStatus .ok)

/-- FROMINT (R69). -/
def execFromInt (s : State) : Host.Outcome State Fault Refusal :=
  .next ((s.writeId s.u).setStatus .ok)

/-- TOINT (R70). -/
def execToInt (s : State) : Host.Outcome State Fault Refusal :=
  .next ((s.writeU s.id).setStatus .ok)

/-- What FROMSLICE leaves (R71). A failure writes no result register (R72). -/
def State.fromSlice (s : State) : State :=
  if s.sliceLen ≠ Config.sliceExpected then s.raise (.bytesError s.sliceLen)
  else (s.writeId (joinBytes s.slice.toList)).setStatus .ok

/-- FROMSLICE (R71). -/
def execFromSlice (s : State) : Host.Outcome State Fault Refusal :=
  .next s.fromSlice

end Sys2Proof.Machine
end

