-- ==== Sys2Proof/Machine/Dispatch.lean ====
section
/-! DEFINITION. The meaning of every command: one arm per row of the opcode map (R56). -/

namespace Sys2Proof.Machine

/-- The command `i`, performed on the state `s` as one atomic step (R43). -/
def exec (i : Instr) (s : State) : Host.Outcome State Fault Refusal :=
  match i with
  | .encL => Sys2Proof.Machine.execEncL s
  | .encU => Sys2Proof.Machine.execEncU s
  | .dec => Sys2Proof.Machine.execDec s
  | .pack => Sys2Proof.Machine.execPack s
  | .millis => Sys2Proof.Machine.execMillis s
  | .packF => Sys2Proof.Machine.execPackF s
  | .unpackF => Sys2Proof.Machine.execUnpackF s
  | .fromInt => Sys2Proof.Machine.execFromInt s
  | .toInt => Sys2Proof.Machine.execToInt s
  | .fromSlice => Sys2Proof.Machine.execFromSlice s

end Sys2Proof.Machine
end

