-- ==== Sys2Proof/Machine/HostPort.lean ====
section
/-! DEFINITION. The host port's operations, reset, and a run (20_memory.md R37 to R44,
70_reset_and_hazards.md R112, R121). -/

namespace Sys2Proof.Machine

/-- A reset (R112): every register as R33 says. The parameters stay, the inputs still to come stay, and a
new run begins, so no value has been read (log entry 7). -/
def State.afterReset (s : State) : State := { State.resetWith s.params with port := s.port }

/-- `ISSUE(w)` (R37): decode the word, then perform the command, or record ILLEGAL_COMMAND before any
register is read (R100, R101). -/
def issue (w : BitVec 8) (s : State) : Host.Outcome State Fault Refusal :=
  match decode w with
  | .ok i => exec i s
  | .error _ => .next (s.raise (.illegalCommand w))

/-- One input, performed whole (R37, R43). A written value that does not fit its register spells no host
write (R38). -/
def perform (x : PortInput) (s : State) : Host.Outcome State Fault Refusal :=
  match x with
  | .write v => if v.fits s.params then .next (s.hostWrite v) else .refused (.valueTooWide v.reg)
  | .read r => .next (s.recordRead (s.read r))
  | .issue w => issue w s
  | .reset => .next s.afterReset

/-- The inputs of `port`, one step each in the order the host presents them (R44). With none presented
the block waits (R121). -/
def nextInput (s : State) : Host.Outcome State Fault Refusal :=
  match s.port with
  | [] => .next s
  | x :: rest => perform x { s with port := rest }

/-- A sequence of inputs performed in order, each on the state the earlier ones left, up to the first
that stops (R44, R121). -/
def runInputs (xs : List PortInput) (s : State) : Host.Outcome State Fault Refusal :=
  match xs with
  | [] => .next s
  | x :: rest =>
    match perform x s with
    | .next t => runInputs rest t
    | .fault r => .fault r
    | .refused r => .refused r

/-- A run (R121): one reset followed by a finite sequence of host-port operations. -/
def runFromReset (p : Config.Params) (xs : List PortInput) : Host.Outcome State Fault Refusal :=
  runInputs xs (State.resetWith p)

/-- The state with the command word `w` presented next. -/
def State.presentWord (s : State) (w : Nat) : State :=
  { s with port := .issue (BitVec.ofNat 8 w) :: s.port }

end Sys2Proof.Machine
end

