-- ==== Sys2Proof/Machine/Step.lean ====
section
/-! DEFINITION. One step of the machine: the next input the host presents. -/

namespace Sys2Proof.Machine

/-- One step: the next input of `port`, performed whole (R43, R44). -/
def step (s : State) : Host.Outcome State Fault Refusal := nextInput s

/-- The state with one command word presented next on the command port, so that `step` issues exactly
it. Every word has 8 bits (R51), so `nbits` names no further word. -/
def State.withFetchWord (s : State) (_nbits w : Nat) : State := s.presentWord w

end Sys2Proof.Machine
end

