-- ==== Sys2Proof/Machine/Assembly.lean ====
section
/-! DEFINITION. The host assembly (30_encoding.md R61 to R64): from the octets of a line to the host-port
operations it spells, or the reason it is refused. What R61 to R64 leave open of the text is log entry 10. -/

namespace Sys2Proof.Machine

/-- The octets of an ASCII text. -/
def ascii (s : String) : List Byte := s.toList.map octet

/-- Why the assembler refuses a line (R64, 93_implementation_defined.md I9). A refused line spells no
host-port operation. -/
inductive AsmRefusal where
  /-- A literal that does not fit the register's width. -/
  | literalTooWide
  /-- An array index out of range. -/
  | indexOutOfRange
  /-- `WRBYTES` with the wrong number of bytes. -/
  | wrongByteCount
  /-- An unknown mnemonic. -/
  | unknownMnemonic
  /-- A line that is no statement of R61 or R63. -/
  | malformed
  deriving DecidableEq, Repr

/-- The pieces of a line. -/
inductive Token where
  | word (cs : List Byte)
  | quotedChar (c : Byte)
  | quotedText (cs : List Byte)
  | comma
  | openBracket
  | closeBracket
  | minus
  deriving DecidableEq, Repr

/-- What the reader of a line is inside of; the octets gathered so far stand last first. -/
inductive LexMode where
  | between
  | inWord (cs : List Byte)
  | inText (cs : List Byte)
  | afterQuote
  | afterQuotedChar (c : Byte)
  | comment
  | broken
  deriving DecidableEq, Repr

/-- A letter, a digit, `_` or `.`: the octets of names, mnemonics and numbers. -/
def isWordOctet (c : Byte) : Bool :=
  (0x30 ≤ c.toNat && c.toNat ≤ 0x39) || (0x41 ≤ c.toNat && c.toNat ≤ 0x5A) ||
    (0x61 ≤ c.toNat && c.toNat ≤ 0x7A) || c == 0x5F || c == 0x2E

/-- One octet read between tokens: spaces, tabs and line ends part tokens, `;` starts a comment. -/
def lexBetween (ts : List Token) (c : Byte) : List Token × LexMode :=
  if c = 0x20 ∨ c = 0x09 ∨ c = 0x0D then (ts, .between)
  else if c = 0x3B then (ts, .comment)
  else if c = 0x2C then (.comma :: ts, .between)
  else if c = 0x5B then (.openBracket :: ts, .between)
  else if c = 0x5D then (.closeBracket :: ts, .between)
  else if c = 0x2D then (.minus :: ts, .between)
  else if c = 0x22 then (ts, .inText [])
  else if c = 0x27 then (ts, .afterQuote)
  else if isWordOctet c then (ts, .inWord [c])
  else (ts, .broken)

/-- One octet of a line; the tokens so far stand last first. -/
def lexOctet (st : List Token × LexMode) (c : Byte) : List Token × LexMode :=
  match st with
  | (ts, .between) => lexBetween ts c
  | (ts, .inWord cs) =>
    if isWordOctet c then (ts, .inWord (c :: cs)) else lexBetween (.word cs.reverse :: ts) c
  | (ts, .inText cs) =>
    if c = 0x22 then (.quotedText cs.reverse :: ts, .between) else (ts, .inText (c :: cs))
  | (ts, .afterQuote) => if c.toNat < 0x80 then (ts, .afterQuotedChar c) else (ts, .broken)
  | (ts, .afterQuotedChar d) =>
    if c = 0x27 then (.quotedChar d :: ts, .between) else (ts, .broken)
  | (ts, .comment) => (ts, .comment)
  | (ts, .broken) => (ts, .broken)

/-- The tokens of a line, or none where it ends inside a quotation or holds an octet of no token. -/
def tokens (line : List Byte) : Option (List Token) :=
  match line.foldl lexOctet ([], .between) with
  | (ts, .between) => some ts.reverse
  | (ts, .comment) => some ts.reverse
  | (ts, .inWord cs) => some (.word cs.reverse :: ts).reverse
  | _ => none

/-- A `<literal>` or a quoted character (R62). -/
inductive Literal where
  /-- A decimal literal, with or without a leading `-`. -/
  | decimal (negative : Bool) (n : Nat)
  /-- A hexadecimal literal: the raw pattern. -/
  | hexadecimal (n : Nat)
  /-- A quoted ASCII character. -/
  | character (c : Byte)
  deriving DecidableEq, Repr

/-- The value of a digit in base 10 or 16. -/
def digitValue (c : Byte) : Option Nat :=
  if 0x30 ≤ c.toNat ∧ c.toNat ≤ 0x39 then some (c.toNat - 0x30)
  else if 0x41 ≤ (fold c).toNat ∧ (fold c).toNat ≤ 0x46 then some ((fold c).toNat - 0x37)
  else none

/-- The number a nonempty row of digits spells, the most significant digit first (R62). -/
def digitsValue (base : Nat) (cs : List Byte) : Option Nat :=
  if cs = [] then none
  else
    cs.foldl
      (fun acc c =>
        match acc, digitValue c with
        | some n, some d => if d < base then some (n * base + d) else none
        | _, _ => none)
      (some 0)

/-- An unsigned number: `0x` and hexadecimal digits, or decimal digits (R62). -/
def numberLiteral (cs : List Byte) : Option Literal :=
  match cs with
  | z :: x :: rest =>
    if z = 0x30 ∧ x = 0x78 then (digitsValue 16 rest).map .hexadecimal
    else (digitsValue 10 cs).map (.decimal false)
  | _ => (digitsValue 10 cs).map (.decimal false)

/-- The literal a row of tokens spells, where it spells one. -/
def literal (ts : List Token) : Option Literal :=
  match ts with
  | [.word cs] => numberLiteral cs
  | [.minus, .word cs] => (digitsValue 10 cs).map (.decimal true)
  | [.quotedChar c] => some (.character c)
  | _ => none

/-- The place a `WR` or `RD` names: a register, or an element by its index. -/
inductive Target where
  | reg (r : PortReg)
  | txt (i : Nat)
  | slice (i : Nat)
  deriving DecidableEq, Repr

/-- The register a name stands for (R61), spelled as the spec spells it. -/
def registerNamed (cs : List Byte) : Option PortReg :=
  ([("ID", .id), ("TS", .ts), ("RND", .rnd), ("F1", .f1), ("F2", .f2), ("F3", .f3), ("F4", .f4),
    ("F5", .f5), ("U", .u), ("TXT_LEN", .txtLen), ("SLICE_LEN", .sliceLen), ("STATUS", .status),
    ("ERR_FOUND", .errFound)] : List (String × PortReg)).findSome? fun e =>
      if ascii e.1 = cs then some e.2 else none

/-- The number of an array index: an unsigned literal. -/
def indexNumber (cs : List Byte) : Option Nat :=
  match numberLiteral cs with
  | some (.decimal _ n) => some n
  | some (.hexadecimal n) => some n
  | _ => none

/-- The target at the head of a row of tokens, with the tokens after it. -/
def target (ts : List Token) : Option (Target × List Token) :=
  match ts with
  | .word cs :: .openBracket :: .word i :: .closeBracket :: rest =>
    if cs = ascii "TXT" then (indexNumber i).map fun n => (.txt n, rest)
    else if cs = ascii "SLICE" then (indexNumber i).map fun n => (.slice n, rest)
    else none
  | .word cs :: rest => (registerNamed cs).map fun r => (.reg r, rest)
  | _ => none

/-- The numbers between commas up to the closing bracket that ends the line. -/
def byteListTail (ts : List Token) : Option (List Literal) :=
  match ts with
  | [.closeBracket] => some []
  | .comma :: .word cs :: rest =>
    match numberLiteral cs, byteListTail rest with
    | some l, some ls => some (l :: ls)
    | _, _ => none
  | _ => none

/-- A bracketed list of numbers, the list of `WRBYTES` and `WRSLICE` (R63). -/
def byteList (ts : List Token) : Option (List Literal) :=
  match ts with
  | [.openBracket, .closeBracket] => some []
  | .openBracket :: .word cs :: rest =>
    match numberLiteral cs, byteListTail rest with
    | some l, some ls => some (l :: ls)
    | _, _ => none
  | _ => none

/-- The statements of R61 and the pseudo-instructions of R63. -/
inductive Statement where
  /-- A line with no statement on it: blank, or a comment only. -/
  | empty
  /-- `WR <target>, <literal>`. -/
  | wr (t : Target) (v : Literal)
  /-- `RD <target>`. -/
  | rd (t : Target)
  /-- A mnemonic, as it stands. -/
  | mnemonic (cs : List Byte)
  /-- `.word <literal>`. -/
  | word (v : Literal)
  /-- `WRSTR "<s>"`. -/
  | wrStr (s : List Byte)
  /-- `WRBYTES ID, [...]`. -/
  | wrBytesId (bs : List Literal)
  /-- `WRBYTES RND, [...]`. -/
  | wrBytesRnd (bs : List Literal)
  /-- `WRSLICE [...]`. -/
  | wrSlice (bs : List Literal)
  /-- `RDSTR`. -/
  | rdStr
  deriving DecidableEq, Repr

/-- The statement of a row of tokens, or none where it is malformed. -/
def statement (ts : List Token) : Option Statement :=
  match ts with
  | [] => some .empty
  | .word kw :: rest =>
    if kw = ascii "WR" then
      match target rest with
      | some (t, .comma :: lit) => (literal lit).map (.wr t)
      | _ => none
    else if kw = ascii "RD" then
      match target rest with
      | some (t, []) => some (.rd t)
      | _ => none
    else if kw = ascii ".word" then (literal rest).map .word
    else if kw = ascii "WRSTR" then
      match rest with
      | [.quotedText s] => some (.wrStr s)
      | _ => none
    else if kw = ascii "WRBYTES" then
      match rest with
      | .word r :: .comma :: bs =>
        if r = ascii "ID" then (byteList bs).map .wrBytesId
        else if r = ascii "RND" then (byteList bs).map .wrBytesRnd
        else none
      | _ => none
    else if kw = ascii "WRSLICE" then (byteList rest).map .wrSlice
    else if kw = ascii "RDSTR" then (if rest = [] then some .rdStr else none)
    else if rest = [] then some (.mnemonic kw)
    else none
  | _ => none

/-- The mnemonic of a command (R56). -/
def mnemonicName (i : Instr) : List Byte :=
  match i with
  | .encL => ascii "ENC.L"
  | .encU => ascii "ENC.U"
  | .dec => ascii "DEC"
  | .pack => ascii "PACK"
  | .millis => ascii "MILLIS"
  | .packF => ascii "PACKF"
  | .unpackF => ascii "UNPACKF"
  | .fromInt => ascii "FROMINT"
  | .toInt => ascii "TOINT"
  | .fromSlice => ascii "FROMSLICE"

/-- The command a mnemonic names, matched without regard to case (R61). -/
def commandNamed (cs : List Byte) : Option Instr :=
  [.encL, .encU, .dec, .pack, .millis, .packF, .unpackF, .fromInt, .toInt, .fromSlice].find? fun i =>
    decide (mnemonicName i = cs.map fold)

/-- A literal as an unsigned number below `bound` (R62): the leading `-` is for `TS` only, and a quoted
character is for `TXT` only. -/
def unsignedBelow (bound : Nat) (v : Literal) : Except AsmRefusal Nat :=
  match v with
  | .decimal false n => if n < bound then .ok n else .error .literalTooWide
  | .hexadecimal n => if n < bound then .ok n else .error .literalTooWide
  | .decimal true _ => .error .malformed
  | .character _ => .error .malformed

/-- A literal as an unsigned value of a fixed width. -/
def unsignedBits (width : Nat) (v : Literal) : Except AsmRefusal (BitVec width) :=
  (unsignedBelow (2 ^ width) v).map (BitVec.ofNat width)

/-- A literal for `TS` (R62): a decimal is the two's-complement pattern of a value in
-2^63 .. 2^63 - 1, a hexadecimal the raw 64-bit pattern. -/
def timestampLiteral (v : Literal) : Except AsmRefusal (BitVec 64) :=
  match v with
  | .decimal false n => if n < 2 ^ 63 then .ok (BitVec.ofNat 64 n) else .error .literalTooWide
  | .decimal true n => if n ≤ 2 ^ 63 then .ok (BitVec.ofInt 64 (-(n : Int))) else .error .literalTooWide
  | .hexadecimal n => if n < 2 ^ 64 then .ok (BitVec.ofNat 64 n) else .error .literalTooWide
  | .character _ => .error .malformed

/-- A `<char>` (R62): a quoted ASCII character or an 8-bit literal. -/
def charLiteral (v : Literal) : Except AsmRefusal Byte :=
  match v with
  | .character c => .ok c
  | _ => unsignedBits 8 v

/-- The register or element a target names, where its index is in range (R64). -/
def targetReg (t : Target) : Except AsmRefusal PortReg :=
  match t with
  | .reg r => .ok r
  | .txt i => if h : i < 26 then .ok (.txt ⟨i, h⟩) else .error .indexOutOfRange
  | .slice i => if h : i < 16 then .ok (.slice ⟨i, h⟩) else .error .indexOutOfRange

/-- The value a literal gives a register, where it fits the register's width (R62, R64). -/
def writtenValue (p : Config.Params) (r : PortReg) (v : Literal) : Except AsmRefusal PortValue :=
  match r with
  | .id => (unsignedBits 128 v).map .id
  | .ts => (timestampLiteral v).map .ts
  | .rnd => (unsignedBits 80 v).map .rnd
  | .f1 => (unsignedBits 32 v).map .f1
  | .f2 => (unsignedBits 16 v).map .f2
  | .f3 => (unsignedBits 16 v).map .f3
  | .f4 => (unsignedBits 32 v).map .f4
  | .f5 => (unsignedBits 32 v).map .f5
  | .u => (unsignedBits 128 v).map .u
  | .txtLen => (unsignedBelow (2 ^ p.lenWidth) v).map .txtLen
  | .sliceLen => (unsignedBelow (2 ^ p.lenWidth) v).map .sliceLen
  | .txt i => (charLiteral v).map (.txt i)
  | .slice i => (unsignedBits 8 v).map (.slice i)
  | .status => (unsignedBits 32 v).map .status
  | .errFound => (unsignedBelow (2 ^ p.lenWidth) v).map .errFound

/-- The bytes of a list of literals, where each fits 8 bits. DESIGN CHOICE (log entry 10): every element of a
`WRBYTES` or `WRSLICE` list must fit, one past the sixteenth of a slice too, which no register takes (R63), and
one that does not fit is reported before a wrong byte count. -/
def byteLiterals (vs : List Literal) : Except AsmRefusal (List Byte) :=
  match vs with
  | [] => .ok []
  | v :: rest =>
    match unsignedBits 8 v, byteLiterals rest with
    | .ok b, .ok bs => .ok (b :: bs)
    | .error e, _ => .error e
    | _, .error e => .error e

/-- The length write that ends `WRSTR` and `WRSLICE`: the true length (R63). -/
def lengthWrite (p : Config.Params) (n : Nat) (w : PortValue) : Except AsmRefusal (List PortInput) :=
  if n < 2 ^ p.lenWidth then .ok [.write w] else .error .literalTooWide

/-- The writes of the first 26 octets of a text (R63). -/
def txtWrites (s : List Byte) : List PortInput :=
  (List.finRange 26).filterMap fun i => s[i.val]?.map fun c => .write (.txt i c)

/-- The writes of the first 16 bytes of a slice (R63). -/
def sliceWrites (s : List Byte) : List PortInput :=
  (List.finRange 16).filterMap fun i => s[i.val]?.map fun c => .write (.slice i c)

/-- `WRSTR` (R63): the first 26 octets, then the length. -/
def expandWrStr (p : Config.Params) (s : List Byte) : Except AsmRefusal (List PortInput) :=
  (lengthWrite p s.length (.txtLen s.length)).map (txtWrites s ++ ·)

/-- `WRSLICE` (R63): the first 16 bytes, then the length. -/
def expandWrSlice (p : Config.Params) (bs : List Byte) : Except AsmRefusal (List PortInput) :=
  (lengthWrite p bs.length (.sliceLen bs.length)).map (sliceWrites bs ++ ·)

/-- The host-port operations a statement spells (R61, R63), or why it is refused (R64). -/
def spell (p : Config.Params) (st : Statement) : Except AsmRefusal (List PortInput) :=
  match st with
  | .empty => .ok []
  | .wr t v =>
    match targetReg t with
    | .ok r => (writtenValue p r v).map fun w => [.write w]
    | .error e => .error e
  | .rd t => (targetReg t).map fun r => [.read r]
  | .mnemonic cs =>
    match commandNamed cs with
    | some i => .ok [.issue (encode i)]
    | none => .error .unknownMnemonic
  | .word v => (unsignedBits 8 v).map fun w => [.issue w]
  | .wrStr s => expandWrStr p s
  | .wrBytesId vs =>
    match byteLiterals vs with
    | .ok bs => if bs.length = 16 then .ok [.write (.id (joinBytes bs))] else .error .wrongByteCount
    | .error e => .error e
  | .wrBytesRnd vs =>
    match byteLiterals vs with
    | .ok bs =>
      if bs.length = 10 then .ok [.write (.rnd ((joinBytes bs).setWidth 80))] else .error .wrongByteCount
    | .error e => .error e
  | .wrSlice vs =>
    match byteLiterals vs with
    | .ok bs => expandWrSlice p bs
    | .error e => .error e
  | .rdStr => .ok ((List.finRange 26).map fun i => .read (.txt i))

/-- One line of host assembly (R61 to R64). -/
def assembleLine (p : Config.Params) (line : List Byte) : Except AsmRefusal (List PortInput) :=
  match tokens line with
  | none => .error .malformed
  | some ts =>
    match statement ts with
    | none => .error .malformed
    | some st => spell p st

/-- The lines of a text, parted at each line feed. -/
def splitLines (src : List Byte) : List (List Byte) :=
  match src with
  | [] => [[]]
  | c :: rest =>
    if c = 0x0A then [] :: splitLines rest
    else
      match splitLines rest with
      | line :: lines => (c :: line) :: lines
      | [] => [[c]]

/-- The operations a host program spells, line by line (R61). A refused line spells none (R64). -/
def assemble (p : Config.Params) (src : List Byte) : List PortInput :=
  (splitLines src).flatMap fun line =>
    match assembleLine p line with
    | .ok ops => ops
    | .error _ => []

/-- The answer for every line of a host program, so that a refusal is reported by line (R64). -/
def assembleReport (p : Config.Params) (src : List Byte) : List (Except AsmRefusal Nat) :=
  (splitLines src).map fun line => (assembleLine p line).map List.length

end Sys2Proof.Machine
end

