-- ==== Sys2Proof/Machine/Order.lean ====
section
/-! DEFINITION. Equality and order of Identifiers (40_packer.md R76): properties of the value in `ID`,
which no command computes. -/

namespace Sys2Proof.Machine

/-- Whether one row of bytes comes before another: at the first byte that differs, by its value as an
unsigned octet (R76). -/
def bytesBefore (a b : List Byte) : Bool :=
  match a, b with
  | x :: xs, y :: ys => if x = y then bytesBefore xs ys else decide (x.toNat < y.toNat)
  | _, _ => false

/-- Identifier `a` is before Identifier `b` (R76). -/
def identifierBefore (a b : Identifier) : Bool := bytesBefore (identifierBytes a) (identifierBytes b)

end Sys2Proof.Machine
end

