-- ==== Sys2Proof/Machine/SpecModel.lean ====
section
/-! DEFINITION. The spec's model of a run, beside the block: `model_fault(UNWRITTEN, r)` (R12, R35, R101,
R111). It is no hardware behaviour, so `step` knows nothing of it: the block goes on with the value the
register holds, which is the treatment `any value` of 93_implementation_defined.md I1 (log entry 2). The
functions here give an input the treatment `fault` of I1. -/

namespace Sys2Proof.Machine

/-- What an input comes to in the spec's model. -/
inductive ModelOutcome where
  /-- The state the block goes on to. -/
  | next (s : State)
  /-- `model_fault(UNWRITTEN, r)` (R35): no final state, and nothing written. -/
  | modelFault (r : PortReg)
  /-- The block refuses the input. -/
  | refused (r : Refusal)
  deriving DecidableEq, Repr

/-- The registers an input reads, in order: the one a host read names, those of the command a legal word
issues (R55), and none for a reserved word (R100), a host write or a reset. -/
def registersRead (x : PortInput) (s : State) : List PortReg :=
  match x with
  | .write _ => []
  | .read r => [r]
  | .issue w =>
    match decode w with
    | .ok i => operands i s
    | .error _ => []
  | .reset => []

/-- One input in the spec's model: a fault at the first unwritten register it reads (R35, R101), and
otherwise what the block does. -/
def modelPerform (x : PortInput) (s : State) : ModelOutcome :=
  match s.firstUnwritten (registersRead x s) with
  | some r => .modelFault r
  | none =>
    match perform x s with
    | .next t => .next t
    | .refused r => .refused r

/-- One step in the spec's model: the next input presented, if there is one (R44). -/
def modelStep (s : State) : ModelOutcome :=
  match s.port with
  | [] => .next s
  | x :: rest => modelPerform x { s with port := rest }

/-- A sequence of inputs in the spec's model, up to the first fault, where the run stops and has no final
state (R111, R121), or refusal. -/
def modelRun (xs : List PortInput) (s : State) : ModelOutcome :=
  match xs with
  | [] => .next s
  | x :: rest =>
    match modelPerform x s with
    | .next t => modelRun rest t
    | .modelFault r => .modelFault r
    | .refused r => .refused r

end Sys2Proof.Machine
end

