-- ==== Sys2Proof/Machine/System.lean ====
section
/-! DEFINITION. Several blocks in one system, each with its own copy of all state (60_exceptions.md
R108). -/

namespace Sys2Proof.Machine

/-- The blocks of a system. No block has a number of its own (R108): the place in the list is the
system's. -/
abbrev System := List State

/-- One step of the block at place `k`: that block takes its next input, and the others stay. With no
block at that place nothing happens. -/
def System.stepAt (k : Nat) (sys : System) : Host.Outcome System Fault Refusal :=
  match sys[k]? with
  | none => .next sys
  | some s =>
    match nextInput s with
    | .next t => .next (sys.set k t)
    | .fault r => .fault r
    | .refused r => .refused r

end Sys2Proof.Machine
end

