-- ==== Sys2Proof/WellFormed.lean ====
section
/-! DEFINITION. Which commands, parameters and port inputs are well formed. -/

namespace Sys2Proof

/-- Every command is well formed: no command word carries an operand (R55), so there is nothing a
constructor could hold out of range. -/
def Instr.wellFormed (i : Instr) : Bool :=
  match i with
  | .encL => true
  | .encU => true
  | .dec => true
  | .pack => true
  | .millis => true
  | .packF => true
  | .unpackF => true
  | .fromInt => true
  | .toInt => true
  | .fromSlice => true

/-- The parameters a model may take: `LEN_WIDTH >= 8` (R6). -/
def Config.Params.wellFormed (p : Config.Params) : Bool := decide (8 ≤ p.lenWidth)

/-- An input that spells a host-port operation: a written value has its register's width (R38). -/
def Machine.PortInput.wellFormed (p : Config.Params) (x : Machine.PortInput) : Bool :=
  match x with
  | .write v => v.fits p
  | .read _ => true
  | .issue _ => true
  | .reset => true

end Sys2Proof
end

