-- ==== Sys2Proof/Safety.lean ====
section
/-! DEFINITION. The terms claims are stated in: when a command is prepared, what it leaves alone, the
invariant of the registers, and when two states come to the same in the spec's model. -/

namespace Sys2Proof.Machine

/-- The host has prepared the command: every register it reads is written
(70_reset_and_hazards.md R115). -/
abbrev Prepared (i : Instr) (s : State) : Prop := s.firstUnwritten (operands i s) = none

/-- `t` differs from `s` at most in the registers of `rs`, in `STATUS` and in `ERR_FOUND`: every other
register keeps its value and its written bit, and the parameters, the inputs to come and the values read
stay (R50). -/
def OnlyChanges (rs : List PortReg) (s t : State) : Prop :=
  t.params = s.params ∧ t.port = s.port ∧ t.reads = s.reads ∧
    ∀ r, r ∉ rs → r ≠ .status → r ≠ .errFound →
      t.read r = s.read r ∧ t.isWritten r = s.isWritten r

/-- `t` is what a successful command leaves of `s` when it writes the registers of `rs`: all of them
written, outcome OK with every other status field 0 (R26, R28), and nothing else changed. -/
def LeavesOk (rs : List PortReg) (s t : State) : Prop :=
  t.status = 0 ∧ t.errFound = 0 ∧ (∀ r ∈ rs, t.isWritten r = true) ∧ OnlyChanges rs s t

/-- `t` is what a failed command leaves of `s`: the fields of `STATUS` and `ERR_FOUND` as given, the
reserved bits 0, and nothing else changed (R43, R95). -/
def LeavesError (kind index : BitVec 3) (char expected : BitVec 8) (found : Nat) (s t : State) : Prop :=
  kindOf t.status = kind ∧ indexOf t.status = index ∧ charOf t.status = char ∧
    expectedOf t.status = expected ∧ reservedLow t.status = 0 ∧ reservedHigh t.status = 0 ∧
    t.errFound = found ∧ OnlyChanges [] s t

/-- The outcomes a block with parameters `p` can record (R96): each error only for a cause that has it. -/
def CommandStatus.Possible (p : Config.Params) (k : CommandStatus) : Prop :=
  match k with
  | .ok => True
  | .invalidLength n => n ≠ 26 ∧ n < 2 ^ p.lenWidth
  | .invalidCharacter c _ => lookup p.oAlias c = none
  | .bytesError n => n ≠ 16 ∧ n < 2 ^ p.lenWidth
  | .illegalCommand w => ∀ i, decode w ≠ .ok i

/-- The invariant of the registers: the parameters are legal (R6), the length registers fit their
width (R22, R24), and `STATUS` and `ERR_FOUND` record one outcome the block can have (R25 to R28). -/
structure Inv (s : State) : Prop where
  params : s.params.wellFormed = true
  txtLen : s.txtLen < 2 ^ s.params.lenWidth
  sliceLen : s.sliceLen < 2 ^ s.params.lenWidth
  outcome : ∃ k : CommandStatus, k.Possible s.params ∧ s.status = k.word ∧ s.errFound = k.found

/-- Two states of one machine that differ at most in the values of registers nothing has written, which
the spec's model does not tell apart (R32, R35). -/
def SameWhereWritten (s t : State) : Prop :=
  s.params = t.params ∧ s.written = t.written ∧ s.port = t.port ∧ s.reads = t.reads ∧
    ∀ r, s.isWritten r = true → s.read r = t.read r

/-- Two outcomes alike in the spec's model: the same stop, or next states alike where written. -/
def SameOutcome (a b : ModelOutcome) : Prop :=
  match a, b with
  | .next s, .next t => SameWhereWritten s t
  | .modelFault r, .modelFault r' => r = r'
  | .refused r, .refused r' => r = r'
  | _, _ => False

/-- The character `TXT[p]` is the first invalid one (R98). -/
def FirstInvalid (s : State) (p : Fin 26) : Prop :=
  lookup s.params.oAlias s.txt[p] = none ∧ ∀ q : Fin 26, q < p → lookup s.params.oAlias s.txt[q] ≠ none

/-- `val` holds the symbol values of a text DEC accepts (R85): every character is valid. -/
def TextValues (s : State) (val : Vector Symbol 26) : Prop :=
  ∀ p : Fin 26, lookup s.params.oAlias s.txt[p] = some val[p]

/-- The 130 bits `v[0] ++ v[1] ++ ...` of 26 symbols, the first the most significant (R82, R89). -/
def symbolStream (vs : List Symbol) : BitVec 130 :=
  vs.foldl (fun acc v => (acc <<< 5) ||| v.setWidth 130) 0

/-- `v` is an unsigned literal of the number `n`, decimal or hexadecimal (R62). -/
def UnsignedLiteral (v : Literal) (n : Nat) : Prop := v = .decimal false n ∨ v = .hexadecimal n

/-- A safe run from reset, with the final state `t`: no input reads an unwritten register, where the run
would have no final state (R121), and none is refused. -/
def RunsTo (p : Config.Params) (xs : List PortInput) (t : State) : Prop :=
  modelRun xs (State.resetWith p) = .next t

end Sys2Proof.Machine
end

