-- ==== Sys2Proof/Certificates/Slice0/Obligations.lean ====
section
/-! DEFINITION. The statements for the provers: what the rules of spec/ say the block does. -/

open Sys2Proof Sys2Proof.Machine

/-- A word decodes to a command exactly when the pair stands in the list of R57, and every other word is
refused. Equivalently, a word is legal when its bits 7:5 are 0 and either its bits 3:0 are in 2..9 with bit 4
equal to 0, or its bits 3:0 are 1. (stated: R57.) -/
def Obligations.CommandWordsDecode : Prop :=
  (∀ (w : BitVec 8) (i : Instr), decode w = .ok i ↔
    (w, i) ∈ [(0b00000001#8, Instr.encL), (0b00010001#8, .encU), (0b00000010#8, .dec), (0b00000011#8, .pack),
      (0b00000100#8, .millis), (0b00000101#8, .packF), (0b00000110#8, .unpackF), (0b00000111#8, .fromInt),
      (0b00001000#8, .toInt), (0b00001001#8, .fromSlice)]) ∧
  ∀ w : BitVec 8, (∃ i, decode w = .ok i) ↔
    (w.extractLsb' 5 3 = 0 ∧
      ((2 ≤ (w.extractLsb' 0 4).toNat ∧ (w.extractLsb' 0 4).toNat ≤ 9 ∧ w.extractLsb' 4 1 = 0) ∨
        w.extractLsb' 0 4 = 1))

/-- For every command i, decode (encode i) is i, and a word that decodes to i is encode i. (derived:
30_encoding.md R56, R57.) -/
def Obligations.DecodeOfEncode : Prop :=
  ∀ i : Instr, i.wellFormed = true → decode (encode i) = .ok i ∧ ∀ w, decode w = .ok i → w = encode i

/-- Of the 256 words, 246 are refused: 224 with RSV not 0; with RSV 0, 2 with OP 0, 12 with OP 0xA..0xF, and 8
with CASE 1 and OP in 2..9. (derived: 30_encoding.md R52, R53, R54, R58.) -/
def Obligations.ReservedWordsCounted : Prop :=
  let refused := ((List.range 256).map (BitVec.ofNat 8)).filter fun w =>
    match decode w with
    | .ok _ => false
    | .error _ => true
  let plain := refused.filter fun w => w.extractLsb' 5 3 = 0
  refused.length = 246 ∧
  (refused.filter fun w => w.extractLsb' 5 3 ≠ 0).length = 224 ∧
  (plain.filter fun w => w.extractLsb' 0 4 = 0).length = 2 ∧
  (plain.filter fun w => 10 ≤ (w.extractLsb' 0 4).toNat).length = 12 ∧
  (plain.filter fun w =>
    w.extractLsb' 4 1 = 1 ∧ 2 ≤ (w.extractLsb' 0 4).toNat ∧ (w.extractLsb' 0 4).toNat ≤ 9).length = 8

/-- For every word that is none of the ten of the opcode map and every state, issuing it gives a next state
whose KIND is 4, whose ERR_FOUND is the word zero-extended, whose other status fields are 0, and which is
otherwise the state before; since no register is read, it is no model fault either. (stated: R100.) -/
def Obligations.ReservedWordIsIllegalCommand : Prop :=
  ∀ (w : BitVec 8) (s : State),
    w ∉ [0x01#8, 0x11#8, 0x02#8, 0x03#8, 0x04#8, 0x05#8, 0x06#8, 0x07#8, 0x08#8, 0x09#8] →
    ∃ t, perform (.issue w) s = .next t ∧ modelPerform (.issue w) s = .next t ∧
      LeavesError 4 0 0 0 w.toNat s t

/-- When the next input is ISSUE(w) and w decodes to a well-formed command i, the step is exec of i on the
state with that input taken; the words placed by withFetchWord run so. That a step takes the head of the list
port, and that withFetchWord stands for the host presenting a word, are the model's choice (log entry 5,
DESIGN CHOICE). (derived: 20_memory.md R37, R43, 30_encoding.md R57.) -/
def Obligations.StepRunsDecodedCommand : Prop :=
  (∀ (s : State) (w : BitVec 8) (rest : List PortInput) (i : Instr), i.wellFormed = true →
    s.port = .issue w :: rest → decode w = .ok i → step s = exec i { s with port := rest }) ∧
  ∀ (s : State) (w : Nat) (i : Instr), decodeTableWord 8 w = some i → step (s.withFetchWord 8 w) = exec i s

/-- With no input presented the step answers the same state. With inputs presented it performs the first on
the state that holds the rest. The list of inputs and the step that performs its first are the model's choice
(log entry 5, DESIGN CHOICE); that the block waits with none is the model's inference from R121 (log entry 5,
DEDUCED). (derived: 20_memory.md R43, R44, 70_reset_and_hazards.md R121.) -/
def Obligations.StepTakesTheNextInput : Prop :=
  (∀ s : State, s.port = [] → step s = .next s) ∧
  ∀ (s : State) (x : PortInput) (rest : List PortInput), s.port = x :: rest →
    step s = perform x { s with port := rest }

/-- The empty sequence leaves the state, and one input is performed as perform says. Where the first part of a
sequence reaches a state, the rest runs from that state. Where the first part is refused, the whole is refused
for the same reason: that a refused input stops the run is the model's inference (log entry 8, DEDUCED).
(derived: 20_memory.md R44, 70_reset_and_hazards.md R121.) -/
def Obligations.RunPerformsInputsInOrder : Prop :=
  (∀ s : State, runInputs [] s = .next s) ∧
  (∀ (x : PortInput) (s : State), runInputs [x] s = perform x s) ∧
  ∀ (xs ys : List PortInput) (s : State),
    (∀ t, runInputs xs s = .next t → runInputs (xs ++ ys) s = runInputs ys t) ∧
    (∀ r, runInputs xs s = .refused r → runInputs (xs ++ ys) s = .refused r)

/-- The host's run of n steps, on a state that presents n inputs before some rest, is the run of those inputs
on the state that presents the rest. The list of inputs that the steps consume is the model's choice (log
entry 5, DESIGN CHOICE). (derived: 20_memory.md R44, 70_reset_and_hazards.md R121.) -/
def Obligations.StepsAreTheRun : Prop :=
  ∀ (xs rest : List PortInput) (s : State),
    Host.Core.run Sys2Proof.core xs.length { s with port := xs ++ rest } =
      runInputs xs { s with port := rest }

/-- For every value that fits its register's width: on a data register or element the write gives a next state
that reads the value there, with its written bit set, and every other register, STATUS and ERR_FOUND among
them, unchanged; on STATUS or ERR_FOUND it changes nothing. A value that does not fit a LEN_WIDTH-bit
register, ERR_FOUND included, spells no write; that the step then refuses it by name is the model's inference
(log entry 8, DEDUCED). (derived: 20_memory.md R38, 10_state.md R29.) -/
def Obligations.HostWriteReplacesOneRegister : Prop :=
  ∀ (s : State) (v : PortValue),
    (v.fits s.params = true → v.reg ≠ .status → v.reg ≠ .errFound →
      ∃ t, perform (.write v) s = .next t ∧ t.read v.reg = v ∧ t.isWritten v.reg = true ∧
        t.status = s.status ∧ t.errFound = s.errFound ∧ OnlyChanges [v.reg] s t) ∧
    (v.fits s.params = true → v.reg = .status ∨ v.reg = .errFound → perform (.write v) s = .next s) ∧
    (v.fits s.params = false → perform (.write v) s = .refused (.valueTooWide v.reg))

/-- In every state a host read gives the state before with the returned value recorded, and a second one
returns the same value again. That a read of an unwritten register returns the value held is the model's
choice (log entry 2, DESIGN CHOICE), and so is recording the value (log entry 6, DESIGN CHOICE). (derived:
20_memory.md R39, 93_implementation_defined.md I1.) -/
def Obligations.HostReadChangesNothing : Prop :=
  ∀ (s : State) (r : PortReg),
    perform (.read r) s = .next { s with reads := s.reads ++ [s.read r] } ∧
    runInputs [.read r, .read r] s = .next { s with reads := s.reads ++ [s.read r, s.read r] }

/-- In the spec's model a host read of a data register or element whose written bit is clear ends in
model_fault(UNWRITTEN, r), and a read of any other register does what it does in the block; STATUS and
ERR_FOUND always are such. The fault is no hardware behaviour (R12): the block's own step goes on (log entry
2, DESIGN CHOICE). (derived: 10_state.md R32, R35, 20_memory.md R39, 60_exceptions.md R111.) -/
def Obligations.UnwrittenHostReadStops : Prop :=
  (∀ (s : State) (r : PortReg), s.isWritten r = false → modelPerform (.read r) s = .modelFault r) ∧
  (∀ (s : State) (r : PortReg), s.isWritten r = true →
    modelPerform (.read r) s = .next (s.recordRead (s.read r))) ∧
  ∀ s : State, s.isWritten .status = true ∧ s.isWritten .errFound = true

/-- In every state, the reset input gives a next state with STATUS 0, ERR_FOUND 0 and no data register or
element written, with the parameters kept; the state after power-on is such a state too. What the data
registers hold then is the model's choice (log entry 1), of which this says nothing. (derived: 10_state.md
R33, 70_reset_and_hazards.md R112.) -/
def Obligations.ResetClearsStatusAndWrittenBits : Prop :=
  (∀ s : State, ∃ t, perform .reset s = .next t ∧ t.status = 0 ∧ t.errFound = 0 ∧ t.params = s.params ∧
    ∀ r, r ≠ .status → r ≠ .errFound → t.isWritten r = false) ∧
  ∀ p : Config.Params, (State.resetWith p).status = 0 ∧ (State.resetWith p).errFound = 0 ∧
    ∀ r, r ≠ .status → r ≠ .errFound → (State.resetWith p).isWritten r = false

/-- For every parameters, KIND is 0 in the state after reset, and a run whose one operation reads STATUS ends
in a state whose one value read is STATUS 0. That the state records the values read is the model's choice (log
entry 6, DESIGN CHOICE). (derived: 70_reset_and_hazards.md R112, R113, 10_state.md R33.) -/
def Obligations.StatusReadsOkAfterReset : Prop :=
  ∀ p : Config.Params, kindOf (State.resetWith p).status = 0 ∧
    ∃ t, runFromReset p [.read .status] = .next t ∧ t.reads = [.status 0]

/-- For every legal parameters the state after reset meets Inv, and so does State.reset. The bounds on the
length registers rest on the zeros of log entry 1. (derived: 00_scope.md R6, 10_state.md R33.) -/
def Obligations.ResetMeetsTheInvariant : Prop :=
  (∀ p : Config.Params, p.wellFormed = true → Inv (State.resetWith p)) ∧ Inv State.reset

/-- From every state that meets Inv, reachable or not, whatever inputs are presented: if the step answers a
next state, that state meets Inv. Inv says that the parameters are legal, that the length registers fit
LEN_WIDTH, and that STATUS and ERR_FOUND record together one outcome the block can have. (derived: 00_scope.md
R6, 10_state.md R22, R24, R25, R26, R27, R28.) -/
def Obligations.StepKeepsTheInvariant : Prop :=
  ∀ s t : State, Inv s → step s = .next t → Inv t

/-- Under Inv: the reserved bits read 0; KIND is at most 4; EXPECTED is 16 when KIND is 3 and 0 otherwise;
CHAR and INDEX are 0 unless KIND is 2; ERR_FOUND is 0 when KIND is 0 or 2, a length other than 26 when 1,
other than 16 when 3, a reserved command word when 4, and it always fits LEN_WIDTH. (derived: 10_state.md R25,
R26, R27.) -/
def Obligations.StatusFieldsAreLegal : Prop :=
  ∀ s : State, Inv s →
    reservedLow s.status = 0 ∧ reservedHigh s.status = 0 ∧ (kindOf s.status).toNat ≤ 4 ∧
    expectedOf s.status = (if kindOf s.status = 3 then 16 else 0) ∧
    (kindOf s.status ≠ 2 → charOf s.status = 0 ∧ indexOf s.status = 0) ∧
    (kindOf s.status = 0 ∨ kindOf s.status = 2 → s.errFound = 0) ∧
    (kindOf s.status = 1 → s.errFound ≠ 26) ∧ (kindOf s.status = 3 → s.errFound ≠ 16) ∧
    (kindOf s.status = 4 → s.errFound < 256 ∧ ∀ i, decode (BitVec.ofNat 8 s.errFound) ≠ .ok i) ∧
    s.errFound < 2 ^ s.params.lenWidth

/-- For every command that answers a next state: ENC.L and ENC.U change at most TXT[0..25] and TXT_LEN; DEC,
PACK, PACKF, FROMINT and FROMSLICE at most ID; MILLIS at most TS; UNPACKF at most F1 to F5; TOINT at most U.
Every other register keeps its value and written bit, and the parameters, the inputs presented and the values
read stay. The block has no memory (R36). (derived: 20_memory.md R36, R50, 30_encoding.md R55.) -/
def Obligations.CommandFrame : Prop :=
  ∀ s t : State,
    (exec .encL s = .next t → OnlyChanges ((List.finRange 26).map .txt ++ [.txtLen]) s t) ∧
    (exec .encU s = .next t → OnlyChanges ((List.finRange 26).map .txt ++ [.txtLen]) s t) ∧
    (exec .dec s = .next t → OnlyChanges [.id] s t) ∧
    (exec .pack s = .next t → OnlyChanges [.id] s t) ∧
    (exec .millis s = .next t → OnlyChanges [.ts] s t) ∧
    (exec .packF s = .next t → OnlyChanges [.id] s t) ∧
    (exec .unpackF s = .next t → OnlyChanges [.f1, .f2, .f3, .f4, .f5] s t) ∧
    (exec .fromInt s = .next t → OnlyChanges [.id] s t) ∧
    (exec .toInt s = .next t → OnlyChanges [.u] s t) ∧
    (exec .fromSlice s = .next t → OnlyChanges [.id] s t)

/-- Take two states with the same parameters that agree on every register the command reads in the first. If
the command answers a next state in both, the two next states agree on STATUS, on ERR_FOUND, and on every
register the command writes, unless it wrote none of its results in either. (derived: 10_state.md R28,
20_memory.md R50, 30_encoding.md R55.) -/
def Obligations.CommandDependsOnlyOnItsOperands : Prop :=
  ∀ (i : Instr) (s s' t t' : State), s.params = s'.params →
    (∀ r ∈ operands i s, s.read r = s'.read r) → exec i s = .next t → exec i s' = .next t' →
    t.status = t'.status ∧ t.errFound = t'.errFound ∧
      ((∀ r ∈ results i, t.read r = t'.read r) ∨ (OnlyChanges [] s t ∧ OnlyChanges [] s' t'))

/-- Changing STATUS and ERR_FOUND to any values before a command word is issued changes nothing of the
outcome: no command reads them, and every one overwrites both. (derived: 10_state.md R28, R31,
60_exceptions.md R103, 70_reset_and_hazards.md R119.) -/
def Obligations.CommandOverwritesTheStatus : Prop :=
  ∀ (w : BitVec 8) (s t : State) (x : BitVec 32) (n : Nat), perform (.issue w) s = .next t →
    perform (.issue w) { s with status := x, errFound := n } = .next t

/-- If a command answers a next state whose KIND is not 0, every data register keeps its value and its written
bit. (derived: 20_memory.md R43, 40_packer.md R72, 41_codec.md R91, 60_exceptions.md R95,
70_reset_and_hazards.md R117.) -/
def Obligations.FailedCommandChangesOnlyTheStatus : Prop :=
  ∀ (i : Instr) (s t : State), exec i s = .next t → kindOf t.status ≠ 0 → OnlyChanges [] s t

/-- DEC ends in KIND 0, 1 or 2, FROMSLICE in 0 or 3, and every other command in 0. (derived: 60_exceptions.md
R96.) -/
def Obligations.OutcomeCodesPerCommand : Prop :=
  ∀ (i : Instr) (s t : State), exec i s = .next t →
    kindOf t.status ∈ (match i with
      | .dec => [0, 1, 2]
      | .fromSlice => [0, 3]
      | _ => [0] : List (BitVec 3))

/-- PACK reads TS, RND; PACKF F1 to F5 in order; FROMINT U; ENC.L, ENC.U, MILLIS, UNPACKF and TOINT ID.
FROMSLICE reads SLICE_LEN and, only if it is 16, SLICE[0..15] in index order. DEC reads TXT_LEN and, only if
it is 26, TXT[0], TXT[1], ... up to the first invalid character or TXT[25]. (derived: 30_encoding.md R55,
40_packer.md R71, 41_codec.md R85.) -/
def Obligations.OperandsFollowTheTable : Prop :=
  ∀ s : State,
    operands .encL s = [.id] ∧ operands .encU s = [.id] ∧ operands .pack s = [.ts, .rnd] ∧
    operands .millis s = [.id] ∧ operands .packF s = [.f1, .f2, .f3, .f4, .f5] ∧
    operands .unpackF s = [.id] ∧ operands .fromInt s = [.u] ∧ operands .toInt s = [.id] ∧
    (s.sliceLen ≠ 16 → operands .fromSlice s = [.sliceLen]) ∧
    (s.sliceLen = 16 → operands .fromSlice s = .sliceLen :: (List.finRange 16).map .slice) ∧
    (s.txtLen ≠ 26 → operands .dec s = [.txtLen]) ∧
    (∀ p : Fin 26, s.txtLen = 26 → FirstInvalid s p →
      operands .dec s = .txtLen :: ((List.finRange 26).filter (· ≤ p)).map .txt) ∧
    (s.txtLen = 26 → (∀ p : Fin 26, lookup s.params.oAlias s.txt[p] ≠ none) →
      operands .dec s = .txtLen :: (List.finRange 26).map .txt)

/-- In the spec's model, issuing a command's word ends in the model fault that names register r exactly when r
is the first unwritten register of the command's read order, and otherwise in the block's next state. The
block itself never stops: every command answers a next state from every state, with the values held (log entry
2, DESIGN CHOICE). (derived: 10_state.md R35, 60_exceptions.md R101, R111, 70_reset_and_hazards.md R115.) -/
def Obligations.CommandStopsOnlyAtAnUnwrittenOperand : Prop :=
  ∀ (i : Instr) (s : State),
    (∀ r, modelPerform (.issue (encode i)) s = .modelFault r ↔ s.firstUnwritten (operands i s) = some r) ∧
    (∀ t, modelPerform (.issue (encode i)) s = .next t ↔ Prepared i s ∧ exec i s = .next t) ∧
    ∃ t, exec i s = .next t

/-- In the spec's model: with TXT_LEN unwritten DEC faults naming it; with TXT_LEN written and not 26 DEC
reports INVALID_LENGTH though no character is written; with TXT_LEN 26, an unwritten character after written
valid ones faults naming it; an invalid character after written valid ones is reported though later ones are
unwritten. The fault is no hardware behaviour (R12, log entry 2). (derived: 10_state.md R35, 60_exceptions.md
R101, 93_implementation_defined.md I12.) -/
def Obligations.DecReadsNoFurtherThanItMust : Prop :=
  ∀ s : State,
    (s.written.txtLen = false → modelPerform (.issue 0x02) s = .modelFault .txtLen) ∧
    (s.written.txtLen = true → s.txtLen ≠ 26 →
      ∃ t, modelPerform (.issue 0x02) s = .next t ∧ kindOf t.status = 1) ∧
    (∀ p : Fin 26, s.written.txtLen = true → s.txtLen = 26 → s.written.txt[p] = false →
      (∀ q : Fin 26, q < p → s.written.txt[q] = true ∧ lookup s.params.oAlias s.txt[q] ≠ none) →
      modelPerform (.issue 0x02) s = .modelFault (.txt p)) ∧
    (∀ p : Fin 26, s.written.txtLen = true → s.txtLen = 26 → FirstInvalid s p →
      (∀ q : Fin 26, q ≤ p → s.written.txt[q] = true) →
      ∃ t, modelPerform (.issue 0x02) s = .next t ∧ kindOf t.status = 2 ∧ charOf t.status = s.txt[p])

/-- Take two states that differ at most in the values of registers nothing has written. Their steps in the
spec's model give the same model fault or refusal, or two next states that again differ at most so. The list
of inputs a step takes from is log entry 5, and that the fault stands beside the block's own step is log entry
2 (both DESIGN CHOICE). (derived: 10_state.md R32, R35, 60_exceptions.md R111, 93_implementation_defined.md
I1.) -/
def Obligations.UnwrittenValuesNeverShow : Prop :=
  ∀ s t : State, SameWhereWritten s t → SameOutcome (modelStep s) (modelStep t)

/-- Every command answers a next state from every state, and with any other written bits it answers one with
the same value in every register. So what is stated of a command whose operands are written holds of the
values held, written or not: the treatment of unwritten reads that the model chooses among those of I1 (log
entry 2, DESIGN CHOICE). (derived: 93_implementation_defined.md I1, 10_state.md R32.) -/
def Obligations.HeldValuesRunAsWrittenOnes : Prop :=
  ∀ (i : Instr) (s : State) (w : Written),
    ∃ t t', exec i s = .next t ∧ exec i { s with written := w } = .next t' ∧ ∀ r, t'.read r = t.read r

/-- The word 0x03 is PACK, which reads TS, then RND. Where every register it reads is written (R115), it
answers a next state with ID the low 48 bits of TS followed by RND, bytes 0 to 5 those of the timestamp, bytes
6 to 15 those of RND, outcome OK and nothing else changed. The corner cases -1, 2^48, -2^63 and 2^47 and the
example of R65 hold. (stated: R65.) -/
def Obligations.PackWritesTheIdentifier : Prop :=
  decode 0x03 = .ok .pack ∧ ∀ s : State, operands .pack s = [.ts, .rnd] ∧ (Prepared .pack s →
    ∃ t, exec .pack s = .next t ∧ LeavesOk [.id] s t ∧
      t.id = s.ts.extractLsb' 0 48 ++ s.rnd ∧
      (∀ k < 6, byteAt t.id k = byteAt (s.ts.extractLsb' 0 48) k) ∧
      (∀ j < 10, byteAt t.id (6 + j) = byteAt s.rnd j) ∧
      (s.ts = BitVec.ofInt 64 (-1) → ∀ k < 6, byteAt t.id k = 0xFF) ∧
      (s.ts = BitVec.ofInt 64 (2 ^ 48) → ∀ k < 6, byteAt t.id k = 0) ∧
      (s.ts = BitVec.ofInt 64 (-2 ^ 63) → ∀ k < 6, byteAt t.id k = 0) ∧
      (s.ts = BitVec.ofInt 64 (2 ^ 47) → byteAt t.id 0 = 0x80 ∧ ∀ k < 5, byteAt t.id (k + 1) = 0) ∧
      (s.ts = BitVec.ofInt 64 1546017741324 → s.rnd = 0x6bc8e4c2663aec52f757#80 →
        t.id = 0x0167f5d69a0c6bc8e4c2663aec52f757#128))

/-- The word 0x04 is MILLIS, which reads ID. Where every register it reads is written (R115), it answers a
next state with TS the bits 127:80 of ID sign-extended to 64 bits, that is with the same signed value, outcome
OK and nothing else changed. The corner cases and the example of R66 hold. (stated: R66.) -/
def Obligations.MillisWritesTheTimestamp : Prop :=
  decode 0x04 = .ok .millis ∧ ∀ s : State, operands .millis s = [.id] ∧ (Prepared .millis s →
    ∃ t, exec .millis s = .next t ∧ LeavesOk [.ts] s t ∧
      t.ts = (s.id.extractLsb' 80 48).signExtend 64 ∧
      t.ts.toInt = (s.id.extractLsb' 80 48).toInt ∧
      (s.id.extractLsb' 127 1 = 1 → t.ts.toInt < 0) ∧
      (s.id.extractLsb' 80 48 = 0x800000000000#48 →
        t.ts.toInt = -2 ^ 47 ∧ t.ts = 0xFFFF800000000000#64) ∧
      (s.id.extractLsb' 80 48 = 0xFFFFFFFFFFFF#48 → t.ts.toInt = -1) ∧
      (s.id.extractLsb' 80 48 = 0x7FFFFFFFFFFF#48 → t.ts.toInt = 2 ^ 47 - 1) ∧
      (s.id = 0x0167f5d69a0c6bc8e4c2663aec52f757#128 → t.ts.toInt = 1546017741324))

/-- The word 0x05 is PACKF, which reads F1 to F5 in order. Where every register it reads is written (R115), it
answers a next state with ID the five fields concatenated, F1 in bytes 0 to 3, F2 in 4 and 5, F3 in 6 and 7,
F4 in 8 to 11, F5 in 12 to 15, each big-endian, outcome OK and nothing else changed. The corner cases and the
example of R67 hold. (stated: R67.) -/
def Obligations.PackfWritesTheIdentifier : Prop :=
  decode 0x05 = .ok .packF ∧ ∀ s : State, operands .packF s = [.f1, .f2, .f3, .f4, .f5] ∧
    (Prepared .packF s → ∃ t, exec .packF s = .next t ∧ LeavesOk [.id] s t ∧
      t.id = s.f1 ++ s.f2 ++ s.f3 ++ s.f4 ++ s.f5 ∧
      (∀ k < 4, byteAt t.id k = byteAt s.f1 k ∧ byteAt t.id (8 + k) = byteAt s.f4 k ∧
        byteAt t.id (12 + k) = byteAt s.f5 k) ∧
      (∀ k < 2, byteAt t.id (4 + k) = byteAt s.f2 k ∧ byteAt t.id (6 + k) = byteAt s.f3 k) ∧
      t.id.extractLsb' 80 48 = s.f1 ++ s.f2 ∧
      (s.f1 = 0 ∧ s.f2 = 0 ∧ s.f3 = 0 ∧ s.f4 = 0 ∧ s.f5 = 0 → t.id = 0) ∧
      (s.f1.toNat = 2 ^ 32 - 1 ∧ s.f2.toNat = 2 ^ 16 - 1 ∧ s.f3.toNat = 2 ^ 16 - 1 ∧
        s.f4.toNat = 2 ^ 32 - 1 ∧ s.f5.toNat = 2 ^ 32 - 1 → t.id.toNat = 2 ^ 128 - 1) ∧
      (s.f1 = 23590358#32 ∧ s.f2 = 39436#16 ∧ s.f3 = 27592#16 ∧ s.f4 = 3837945402#32 ∧
        s.f5 = 3964860247#32 → t.id = 0x0167f5d69a0c6bc8e4c2663aec52f757#128))

/-- The word 0x06 is UNPACKF, which reads ID. Where every register it reads is written (R115), it answers a
next state with F1 to F5 the bits 127:96, 95:80, 79:64, 63:32 and 31:0 of ID, outcome OK and nothing else
changed. The example of R68 holds. (stated: R68.) -/
def Obligations.UnpackfWritesTheFields : Prop :=
  decode 0x06 = .ok .unpackF ∧ ∀ s : State, operands .unpackF s = [.id] ∧ (Prepared .unpackF s →
    ∃ t, exec .unpackF s = .next t ∧ LeavesOk [.f1, .f2, .f3, .f4, .f5] s t ∧
      t.f1 = s.id.extractLsb' 96 32 ∧ t.f2 = s.id.extractLsb' 80 16 ∧ t.f3 = s.id.extractLsb' 64 16 ∧
      t.f4 = s.id.extractLsb' 32 32 ∧ t.f5 = s.id.extractLsb' 0 32 ∧
      (s.id = 0x0167f5d69a0c6bc8e4c2663aec52f757#128 →
        t.f1 = 23590358#32 ∧ t.f2 = 39436#16 ∧ t.f3 = 27592#16 ∧ t.f4 = 3837945402#32 ∧
        t.f5 = 3964860247#32))

/-- The word 0x07 is FROMINT, which reads U. Where every register it reads is written (R115), it answers a
next state with ID equal to U, byte k of ID the bits 127-8k:120-8k of U, outcome OK and nothing else changed.
The corner cases and the example of R69 hold. (stated: R69.) -/
def Obligations.FromintWritesTheIdentifier : Prop :=
  decode 0x07 = .ok .fromInt ∧ ∀ s : State, operands .fromInt s = [.u] ∧ (Prepared .fromInt s →
    ∃ t, exec .fromInt s = .next t ∧ LeavesOk [.id] s t ∧ t.id = s.u ∧
      (∀ k < 16, byteAt t.id k = s.u.extractLsb' (120 - 8 * k) 8) ∧
      (s.u = 0 → ∀ k < 16, byteAt t.id k = 0) ∧
      (s.u.toNat = 2 ^ 128 - 1 → ∀ k < 16, byteAt t.id k = 0xFF) ∧
      (s.u = 0x0167f5d69a0c6bc8e4c2663aec52f757#128 → identifierBytes t.id =
        [1, 103, 245, 214, 154, 12, 107, 200, 228, 194, 102, 58, 236, 82, 247, 87]))

/-- The word 0x08 is TOINT, which reads ID. Where every register it reads is written (R115), it answers a next
state with U equal to ID, outcome OK and nothing else changed. The example of R70 holds. (stated: R70.) -/
def Obligations.TointWritesTheInteger : Prop :=
  decode 0x08 = .ok .toInt ∧ ∀ s : State, operands .toInt s = [.id] ∧ (Prepared .toInt s →
    ∃ t, exec .toInt s = .next t ∧ LeavesOk [.u] s t ∧ t.u = s.id ∧
      (identifierBytes s.id =
          [1, 103, 245, 214, 154, 12, 107, 200, 228, 194, 102, 58, 236, 82, 247, 87] →
        t.u.toNat = 1869020765069383451833408194209838935))

/-- The word 0x09 is FROMSLICE. It reads SLICE_LEN and, only when that is 16, SLICE[0..15] in index order.
Where every register it reads is written (R115): with SLICE_LEN 16 it answers a next state with byte k of ID
equal to SLICE[k], outcome OK and nothing else changed; with any other SLICE_LEN it answers one with KIND 3,
EXPECTED 16, ERR_FOUND the length, CHAR and INDEX 0, and nothing else changed. (stated: R71, R72, R99.) -/
def Obligations.FromsliceCopiesSixteenBytes : Prop :=
  decode 0x09 = .ok .fromSlice ∧ ∀ s : State,
    (s.sliceLen = 16 → operands .fromSlice s = .sliceLen :: (List.finRange 16).map .slice ∧
      (Prepared .fromSlice s → ∃ t, exec .fromSlice s = .next t ∧ LeavesOk [.id] s t ∧
        ∀ k : Fin 16, byteAt t.id k = s.slice[k])) ∧
    (s.sliceLen ≠ 16 → operands .fromSlice s = [.sliceLen] ∧
      (Prepared .fromSlice s → ∃ t, exec .fromSlice s = .next t ∧ LeavesError 3 0 0 16 s.sliceLen s t))

/-- The word 0x01 is ENC.L, which reads ID. Where every register it reads is written (R115), it answers a next
state with TXT[i] the LOWER character of symbol i of R81, TXT_LEN 26, outcome OK and nothing else changed. The
texts of 0 and of 2^128 - 1, the eight possible last characters, the free choice of the first and the example
of R83 hold. (stated: R83.) -/
def Obligations.EnclWritesTheText : Prop :=
  decode 0x01 = .ok .encL ∧ (∀ s : State, operands .encL s = [.id] ∧ (Prepared .encL s →
    ∃ t, exec .encL s = .next t ∧ LeavesOk ((List.finRange 26).map .txt ++ [.txtLen]) s t ∧
      t.txtLen = 26 ∧
      (∀ i : Fin 26, ∃ v, (encodeSymbols (identifierBytes s.id))[i.val]? = some v ∧
        t.txt[i] = symbolChar lowerAlphabet v) ∧
      t.txt[25] ∈ ascii "048cgmrw" ∧
      (s.id = 0 → t.txt.toList = ascii "00000000000000000000000000") ∧
      (s.id.toNat = 2 ^ 128 - 1 → t.txt.toList = ascii "zzzzzzzzzzzzzzzzzzzzzzzzzw") ∧
      (s.id = 0x0167f5d69a0c6bc8e4c2663aec52f757#128 →
        t.txt.toList = ascii "05kzbnmt1hnwhs62crxermqqaw"))) ∧
  ∀ v : Symbol, ∃ s t, exec .encL s = .next t ∧ t.txt[0] = symbolChar lowerAlphabet v

/-- The word 0x11 is ENC.U, which reads ID. Where every register it reads is written (R115), it answers a next
state with TXT[i] the UPPER character of symbol i of R81, TXT_LEN 26, outcome OK and nothing else changed. The
text of 0 and of 2^128 - 1, the eight possible last characters, the free choice of the first and the example
of R84 hold. (stated: R84.) -/
def Obligations.EncuWritesTheText : Prop :=
  decode 0x11 = .ok .encU ∧ (∀ s : State, operands .encU s = [.id] ∧ (Prepared .encU s →
    ∃ t, exec .encU s = .next t ∧ LeavesOk ((List.finRange 26).map .txt ++ [.txtLen]) s t ∧
      t.txtLen = 26 ∧
      (∀ i : Fin 26, ∃ v, (encodeSymbols (identifierBytes s.id))[i.val]? = some v ∧
        t.txt[i] = symbolChar upperAlphabet v) ∧
      t.txt[25] ∈ ascii "048CGMRW" ∧
      (s.id = 0 → t.txt.toList = ascii "00000000000000000000000000") ∧
      (s.id.toNat = 2 ^ 128 - 1 → t.txt.toList = ascii "ZZZZZZZZZZZZZZZZZZZZZZZZZW") ∧
      (s.id = 0x0167f5d69a0c6bc8e4c2663aec52f757#128 →
        t.txt.toList = ascii "05KZBNMT1HNWHS62CRXERMQQAW") ∧
      (∀ tl, exec .encL s = .next tl → ∀ i : Fin 26, fold t.txt[i] = fold tl.txt[i]))) ∧
  ∀ v : Symbol, ∃ s t, exec .encU s = .next t ∧ t.txt[0] = symbolChar upperAlphabet v

/-- The word 0x02 is DEC. Where every register it reads is written (R115), it answers a next state. With
TXT_LEN 26 and every character valid, that state has ID the first 16 bytes that the chunks of R88 give of the
values, outcome OK and nothing else changed. In every case exactly one of three holds of TXT_LEN, the text and
the outcome: TXT_LEN is not 26 and KIND is 1; TXT_LEN is 26, there is a first invalid character and KIND is 2;
TXT_LEN is 26, all 26 characters are valid and KIND is 0. (derived: 41_codec.md R85, R86, R87, R88,
60_exceptions.md R101.) -/
def Obligations.DecDecodesAValidText : Prop :=
  decode 0x02 = .ok .dec ∧ ∀ s : State, Prepared .dec s →
    ∃ t, exec .dec s = .next t ∧
      (∀ val : Vector Symbol 26, s.txtLen = 26 → TextValues s val →
        LeavesOk [.id] s t ∧ t.id = joinBytes ((decodeBytes val.toList).take 16)) ∧
      ((s.txtLen ≠ 26 ∧ kindOf t.status = 1) ∨
        (s.txtLen = 26 ∧ (∃ p, FirstInvalid s p) ∧ (¬∃ val, TextValues s val) ∧ kindOf t.status = 2) ∨
        (s.txtLen = 26 ∧ (¬∃ p, FirstInvalid s p) ∧ (∃ val, TextValues s val) ∧ kindOf t.status = 0))

/-- Where every register DEC reads is written (R115), with TXT_LEN other than 26, it reads TXT_LEN alone and
answers a next state with KIND 1, ERR_FOUND the length exactly and CHAR, INDEX and EXPECTED 0. With TXT_LEN 26
its KIND is never 1. (stated: R97.) -/
def Obligations.DecRejectsAWrongLength : Prop :=
  ∀ s : State,
    (s.txtLen ≠ 26 → operands .dec s = [.txtLen] ∧ (Prepared .dec s →
      ∃ t, exec .dec s = .next t ∧ LeavesError 1 0 0 0 s.txtLen s t)) ∧
    ∀ t, s.txtLen = 26 → exec .dec s = .next t → kindOf t.status ≠ 1

/-- Where every register DEC reads is written (R115), with TXT_LEN 26 and TXT[p] is the invalid character of
smallest position, it answers a next state with KIND 2, CHAR the octet TXT[p] unfolded, INDEX p mod 8,
ERR_FOUND and EXPECTED 0, and nothing else changed. (stated: R98.) -/
def Obligations.DecReportsTheFirstInvalidCharacter : Prop :=
  ∀ (s : State) (p : Fin 26), s.txtLen = 26 → lookup s.params.oAlias s.txt[p] = none →
    (∀ q : Fin 26, q < p → lookup s.params.oAlias s.txt[q] ≠ none) → Prepared .dec s →
    ∃ t, exec .dec s = .next t ∧ LeavesError 2 (BitVec.ofNat 3 (p.val % 8)) s.txt[p] 0 0 s t

/-- UPPER and LOWER are the two texts of R78, of 32 characters each, and folding LOWER[v] gives UPPER[v] for
every symbol v; the first ten characters, the digits, are the same in both. (stated: R78.) -/
def Obligations.AlphabetsAreCrockford : Prop :=
  upperAlphabet = ascii "0123456789ABCDEFGHJKMNPQRSTVWXYZ" ∧
  lowerAlphabet = ascii "0123456789abcdefghjkmnpqrstvwxyz" ∧
  upperAlphabet.length = 32 ∧ lowerAlphabet.length = 32 ∧
  (∀ v : Symbol, fold (symbolChar lowerAlphabet v) = symbolChar upperAlphabet v) ∧
  ∀ v : Symbol, v.toNat < 10 → symbolChar lowerAlphabet v = symbolChar upperAlphabet v

/-- Entry by entry the table holds what R79 lists, the entry for O depending on O_ALIAS, and looking up the
folded character of any symbol in either alphabet gives that symbol. (stated: R79.) -/
def Obligations.InverseTableHasTheListedEntries : Prop :=
  ∀ o : Bool, (inverseTable o).length = 43 ∧
    (∀ i < 10, (inverseTable o)[i]? = some (some (BitVec.ofNat 5 i))) ∧
    (∀ i < 7, (inverseTable o)[10 + i]? = some none) ∧
    (∀ i < 8, (inverseTable o)[17 + i]? = some (some (BitVec.ofNat 5 (10 + i)))) ∧
    (inverseTable o)[25]? = some (some 1) ∧ (inverseTable o)[26]? = some (some 18) ∧
    (inverseTable o)[27]? = some (some 19) ∧ (inverseTable o)[28]? = some (some 1) ∧
    (inverseTable o)[29]? = some (some 20) ∧ (inverseTable o)[30]? = some (some 21) ∧
    (inverseTable o)[31]? = some (if o then some 0 else none) ∧
    (∀ i < 5, (inverseTable o)[32 + i]? = some (some (BitVec.ofNat 5 (22 + i)))) ∧
    (inverseTable o)[37]? = some none ∧
    (∀ i < 5, (inverseTable o)[38 + i]? = some (some (BitVec.ofNat 5 (27 + i)))) ∧
    ∀ v : Symbol,
      (inverseTable o)[(fold (symbolChar upperAlphabet v)).toNat - 0x30]? = some (some v) ∧
      (inverseTable o)[(fold (symbolChar lowerAlphabet v)).toNat - 0x30]? = some (some v)

/-- For each value of O_ALIAS and each octet, lookup gives a value exactly when the octet is a character of
UPPER or LOWER, or one of I, i, L, l (value 1), or O_ALIAS holds and it is O or o (value 0). (derived:
41_codec.md R80.) -/
def Obligations.LookupAcceptsExactlyTheSymbolOctets : Prop :=
  ∀ o : Bool,
    (∀ c : Byte, lookup o c ≠ none ↔
      (c ∈ upperAlphabet ∨ c ∈ lowerAlphabet ∨ c ∈ ascii "IiLl" ∨ (o = true ∧ c ∈ ascii "Oo"))) ∧
    (∀ c ∈ ascii "IiLl", lookup o c = some 1) ∧ (∀ c ∈ ascii "Oo", lookup true c = some 0) ∧
    (∀ c ∈ ascii "Oo", lookup false c = none)

/-- For every Identifier the group algorithm of R81 gives 26 symbols, symbol i being the bits 129-5i:125-5i of
the 130 bits ID ++ 0b00. So symbol 0 is ID[127:123], symbol 24 is ID[7:3], and symbol 25 is ID[2:0] ++ 0b00,
whose two low bits are 0. (stated: R82.) -/
def Obligations.EncoderIsTheBitStream : Prop :=
  ∀ v : Identifier, (encodeSymbols (identifierBytes v)).length = 26 ∧
    (∀ i < 26, (encodeSymbols (identifierBytes v))[i]? = some ((v ++ 0b00#2).extractLsb' (125 - 5 * i) 5)) ∧
    (encodeSymbols (identifierBytes v))[0]? = some (v.extractLsb' 123 5) ∧
    (encodeSymbols (identifierBytes v))[24]? = some (v.extractLsb' 3 5) ∧
    (encodeSymbols (identifierBytes v))[25]? = some (v.extractLsb' 0 3 ++ 0b00#2) ∧
    (∀ (s t : State) (i : Fin 26), exec .encL s = .next t → t.txt[i] =
      symbolChar lowerAlphabet ((s.id ++ 0b00#2).extractLsb' (125 - 5 * i.val) 5)) ∧
    ∀ (s t : State) (i : Fin 26), exec .encU s = .next t → t.txt[i] =
      symbolChar upperAlphabet ((s.id ++ 0b00#2).extractLsb' (125 - 5 * i.val) 5)

/-- For eight symbol values, chunk_bytes gives five bytes that satisfy the formulas of R88 on mathematical
integers, and the 40 bits of the bytes are the 40 bits of the values, the first most significant. (stated:
R88.) -/
def Obligations.ChunkBytesAreTheConcatenation : Prop :=
  ∀ v0 v1 v2 v3 v4 v5 v6 v7 : Symbol, ∃ o0 o1 o2 o3 o4 : Byte,
    chunkBytes v0 v1 v2 v3 v4 v5 v6 v7 = [o0, o1, o2, o3, o4] ∧
    o0.toNat = ((v0.toNat <<< 3) ||| (v1.toNat >>> 2)) % 256 ∧
    o1.toNat = ((v1.toNat <<< 6) ||| (v2.toNat <<< 1) ||| (v3.toNat >>> 4)) % 256 ∧
    o2.toNat = ((v3.toNat <<< 4) ||| (v4.toNat >>> 1)) % 256 ∧
    o3.toNat = ((v4.toNat <<< 7) ||| (v5.toNat <<< 2) ||| (v6.toNat >>> 3)) % 256 ∧
    o4.toNat = ((v6.toNat <<< 5) ||| v7.toNat) % 256 ∧
    (o0 ++ o1 ++ o2 ++ o3 ++ o4 : BitVec 40) = v0 ++ v1 ++ v2 ++ v3 ++ v4 ++ v5 ++ v6 ++ v7

/-- For every 26 symbol values, the chunk reassembly with its truncation to 16 bytes gives the bits 129:2 of
the values put together, the first most significant; and that is the ID of a DEC that accepts a text with
these values. (derived: 41_codec.md R85, R89.) -/
def Obligations.DecoderKeepsTheTopBitsOfTheStream : Prop :=
  ∀ val : Vector Symbol 26,
    decodeIdentifier val.toList = (symbolStream val.toList).extractLsb' 2 128 ∧
    ∀ s t : State, s.txtLen = 26 → TextValues s val → exec .dec s = .next t →
      t.id = (symbolStream val.toList).extractLsb' 2 128

/-- Take a text of written characters (R115) that DEC accepts, and replace its last character by any valid one
whose value has the same top three bits: DEC still answers OK, with the same ID. (derived: 41_codec.md R89,
R90.) -/
def Obligations.DecIgnoresTheTwoLastBits : Prop :=
  ∀ (s : State) (val : Vector Symbol 26) (c : Byte) (v : Symbol), s.txtLen = 26 → TextValues s val →
    Prepared .dec s → lookup s.params.oAlias c = some v → v >>> 2 = val[25] >>> 2 →
    ∃ t t', exec .dec s = .next t ∧ exec .dec (s.writeTxtAt 25 c) = .next t' ∧ t'.id = t.id ∧
      t.status = 0 ∧ t'.status = 0

/-- For every state in which ID is written (R115), whatever the parameters: the encoder answers a next state,
DEC answers a next state from there, ID is what it was, and KIND is OK. (stated: R92.) -/
def Obligations.EncodeThenDecodeKeepsTheIdentifier : Prop :=
  (∀ s : State, Prepared .encL s → ∃ t t', exec .encL s = .next t ∧ exec .dec t = .next t' ∧
    t'.id = s.id ∧ kindOf t'.status = 0) ∧
  ∀ s : State, Prepared .encU s → ∃ t t', exec .encU s = .next t ∧ exec .dec t = .next t' ∧
    t'.id = s.id ∧ kindOf t'.status = 0

/-- Where ID is written (R115), TXT after ENC.U is TXT after ENC.L with every octet a..z replaced by its
upper-case form, digits standing unchanged at the same positions, and DEC after either gives the same ID.
(stated: R93.) -/
def Obligations.EncodersDifferOnlyInCase : Prop :=
  ∀ s : State, Prepared .encL s → ∃ tl tu dl du, exec .encL s = .next tl ∧ exec .encU s = .next tu ∧
    (∀ i : Fin 26, tu.txt[i] =
      if 0x61 ≤ tl.txt[i].toNat ∧ tl.txt[i].toNat ≤ 0x7A then tl.txt[i] - 0x20 else tl.txt[i]) ∧
    exec .dec tl = .next dl ∧ exec .dec tu = .next du ∧ dl.id = du.id

/-- For a text of written characters that DEC accepts with values val, DEC and then ENC.L answer next states,
after which TXT[p] is LOWER[val[p]] for p below 25 and TXT[25] is LOWER[val[25] & 0x1C]. (stated: R94.) -/
def Obligations.DecodeThenEncodeIsCanonical : Prop :=
  ∀ (s : State) (val : Vector Symbol 26), s.txtLen = 26 → TextValues s val → Prepared .dec s →
    ∃ t t', exec .dec s = .next t ∧ exec .encL t = .next t' ∧
      (∀ p : Fin 26, p.val < 25 → t'.txt[p] = symbolChar lowerAlphabet val[p]) ∧
      t'.txt[25] = symbolChar lowerAlphabet (val[25] &&& 0x1C)

/-- Where TS and RND are written (R115), PACK and then MILLIS answer next states, after which TS is the sign
extension of the low 48 bits of the TS that PACK read. That is the TS it read exactly when its signed value is
in -2^47 .. 2^47 - 1. (stated: R73.) -/
def Obligations.PackThenMillisSignExtends : Prop :=
  ∀ s : State, Prepared .pack s → ∃ t t', exec .pack s = .next t ∧ exec .millis t = .next t' ∧
    t'.ts = (s.ts.extractLsb' 0 48).signExtend 64 ∧
    (t'.ts = s.ts ↔ -2 ^ 47 ≤ s.ts.toInt ∧ s.ts.toInt < 2 ^ 47)

/-- Where every register the first command reads is written (R115), both answer next states, after which the
field registers, or ID, hold what they held before. (stated: R74.) -/
def Obligations.FieldsRoundTrip : Prop :=
  (∀ s : State, Prepared .packF s → ∃ t t', exec .packF s = .next t ∧ exec .unpackF t = .next t' ∧
    t'.f1 = s.f1 ∧ t'.f2 = s.f2 ∧ t'.f3 = s.f3 ∧ t'.f4 = s.f4 ∧ t'.f5 = s.f5) ∧
  ∀ s : State, Prepared .unpackF s → ∃ t t', exec .unpackF s = .next t ∧ exec .packF t = .next t' ∧
    t'.id = s.id

/-- Where every register the first command reads is written (R115), both answer next states, after which U, or
ID, holds what it held before. (stated: R75.) -/
def Obligations.IntegerRoundTrip : Prop :=
  (∀ s : State, Prepared .fromInt s → ∃ t t', exec .fromInt s = .next t ∧ exec .toInt t = .next t' ∧
    t'.u = s.u) ∧
  ∀ s : State, Prepared .toInt s → ∃ t t', exec .toInt s = .next t ∧ exec .fromInt t = .next t' ∧
    t'.id = s.id

/-- Two Identifiers are equal exactly when their 16 bytes are. One is before another, at the first byte that
differs, exactly when it is the smaller unsigned 128-bit integer. (stated: R76.) -/
def Obligations.IdentifierOrderIsIntegerOrder : Prop :=
  ∀ a b : Identifier, (a = b ↔ ∀ k < 16, byteAt a k = byteAt b k) ∧
    (identifierBefore a b = true ↔ a.toNat < b.toNat)

/-- For the Identifiers A and B that PACK builds of tA, rA and tB, rB: if the low 48 bits of tA are below
those of tB then A is before B, so in particular when 0 <= tA < tB <= 2^48 - 1. When -2^47 <= tA < 0 <= tB <
2^47, B is before A; for tA = 1 and tB = 2^48, B is before A. R77 states the case across the sign without the
bound -2^47, and then it fails (log entry 14): for tA = -2^48 and tB = 1, A is before B. (derived:
40_packer.md R77.) -/
def Obligations.TimestampOrderHoldsInRange : Prop :=
  ∀ (sA sB tA tB : State), exec .pack sA = .next tA → exec .pack sB = .next tB →
    ((sA.ts.extractLsb' 0 48).toNat < (sB.ts.extractLsb' 0 48).toNat →
      identifierBefore tA.id tB.id = true) ∧
    (0 ≤ sA.ts.toInt → sA.ts.toInt < sB.ts.toInt → sB.ts.toInt ≤ 2 ^ 48 - 1 →
      identifierBefore tA.id tB.id = true) ∧
    (-2 ^ 47 ≤ sA.ts.toInt → sA.ts.toInt < 0 → 0 ≤ sB.ts.toInt → sB.ts.toInt < 2 ^ 47 →
      identifierBefore tB.id tA.id = true) ∧
    (sA.ts.toInt = 1 → sB.ts.toInt = 2 ^ 48 → identifierBefore tB.id tA.id = true) ∧
    (sA.ts.toInt = -2 ^ 48 → sB.ts.toInt = 1 → identifierBefore tA.id tB.id = true)

/-- Where TS and RND are written (R115), PACK answers a next state with TS and RND as before, and a second
PACK from there answers that same state. (derived: 20_memory.md R50, 70_reset_and_hazards.md R118.) -/
def Obligations.PackKeepsItsOperands : Prop :=
  ∀ s : State, Prepared .pack s → ∃ t, exec .pack s = .next t ∧ exec .pack t = .next t ∧
    t.ts = s.ts ∧ t.rnd = s.rnd

/-- When the block at place k takes a step, it does what it does alone, and every other place of the system
holds the state it held. That a system is a list of states in which one place steps and the others stay is the
model's framing of R108 (log entry 11, DEDUCED). (derived: 60_exceptions.md R108.) -/
def Obligations.InstancesShareNothing : Prop :=
  ∀ (k : Nat) (sys : System) (s t : State), sys[k]? = some s → step s = .next t →
    ∃ sys', System.stepAt k sys = .next sys' ∧ sys'[k]? = some t ∧ sys'.length = sys.length ∧
      ∀ j, j ≠ k → sys'[j]? = sys[j]?

/-- For every command and every line whose octets, each folded to upper case, are its mnemonic, with spaces or
tabs before and after and a comment behind, the line spells the one operation ISSUE of the command's word.
`.word` with a hexadecimal or decimal number below 256 spells ISSUE of that word, with another number it is
refused, and no other statement issues a word that is no command's. The places of spaces and of a comment are
the model's choice (log entry 10, DESIGN CHOICE). (derived: 30_encoding.md R56, R61, R62, R64.) -/
def Obligations.MnemonicsIssueTheirWords : Prop :=
  (∀ (p : Config.Params) (i : Instr) (before line after comment : List Byte),
    line.map fold = mnemonicName i → (∀ c ∈ before ++ after, c = 0x20 ∨ c = 0x09) →
    (comment = [] ∨ comment.head? = some 0x3B) →
    assembleLine p (before ++ line ++ after ++ comment) = .ok [.issue (encode i)]) ∧
  (∀ (p : Config.Params) (digits : List Byte) (n : Nat), digitsValue 16 digits = some n →
    assembleLine p (ascii ".word 0x" ++ digits) =
      if n < 256 then .ok [.issue (BitVec.ofNat 8 n)] else .error .literalTooWide) ∧
  (∀ (p : Config.Params) (digits : List Byte) (n : Nat), digitsValue 10 digits = some n →
    assembleLine p (ascii ".word " ++ digits) =
      if n < 256 then .ok [.issue (BitVec.ofNat 8 n)] else .error .literalTooWide) ∧
  (∀ p : Config.Params, assembleLine p (ascii ".word 0x12") = .ok [.issue 0x12] ∧
    assembleLine p (ascii ".word 18") = .ok [.issue 0x12] ∧
    assembleLine p (ascii "enc.u ; upper") = .ok [.issue 0x11]) ∧
  ∀ (p : Config.Params) (st : Statement) (ops : List PortInput) (w : BitVec 8), spell p st = .ok ops →
    .issue w ∈ ops → (∃ v, st = .word v) ∨ ∃ i, w = encode i

/-- For every register and element a host writes, and every unsigned literal, decimal or hexadecimal, the
write is spelled exactly when the literal fits the width. For TS a decimal is a value in -2^63 .. 2^63 - 1 and
a hexadecimal a 64-bit pattern. A quoted character is the octet of an element of TXT. An index is accepted
exactly in range, for writes and reads; WRBYTES exactly with 16 bytes for ID and 10 for RND; a mnemonic
exactly when it is a command's in some case, and then it spells ISSUE of that command's word. RD of any
register, STATUS and ERR_FOUND included, spells the read of it, under its name of R61, and RDSTR spells the
reads of TXT[0] to TXT[25] in order. A refused line spells no operation. A few lines written out show the same
of their texts. That a minus sign before another register's literal and a quoted character outside TXT are
refused is the model's choice (log entry 10, DESIGN CHOICE). (derived: 30_encoding.md R61, R62, R63, R64,
93_implementation_defined.md I9.) -/
def Obligations.AssemblerRefusesWhatDoesNotFit : Prop :=
  ∀ p : Config.Params,
  (∀ (n : Nat) (v : Literal), UnsignedLiteral v n →
    spell p (.wr (.reg .id) v) = (if n < 2 ^ 128 then .ok [.write (.id (BitVec.ofNat 128 n))]
      else .error .literalTooWide) ∧
    spell p (.wr (.reg .rnd) v) = (if n < 2 ^ 80 then .ok [.write (.rnd (BitVec.ofNat 80 n))]
      else .error .literalTooWide) ∧
    spell p (.wr (.reg .f1) v) = (if n < 2 ^ 32 then .ok [.write (.f1 (BitVec.ofNat 32 n))]
      else .error .literalTooWide) ∧
    spell p (.wr (.reg .f2) v) = (if n < 2 ^ 16 then .ok [.write (.f2 (BitVec.ofNat 16 n))]
      else .error .literalTooWide) ∧
    spell p (.wr (.reg .f3) v) = (if n < 2 ^ 16 then .ok [.write (.f3 (BitVec.ofNat 16 n))]
      else .error .literalTooWide) ∧
    spell p (.wr (.reg .f4) v) = (if n < 2 ^ 32 then .ok [.write (.f4 (BitVec.ofNat 32 n))]
      else .error .literalTooWide) ∧
    spell p (.wr (.reg .f5) v) = (if n < 2 ^ 32 then .ok [.write (.f5 (BitVec.ofNat 32 n))]
      else .error .literalTooWide) ∧
    spell p (.wr (.reg .u) v) = (if n < 2 ^ 128 then .ok [.write (.u (BitVec.ofNat 128 n))]
      else .error .literalTooWide) ∧
    spell p (.wr (.reg .txtLen) v) = (if n < 2 ^ p.lenWidth then .ok [.write (.txtLen n)]
      else .error .literalTooWide) ∧
    spell p (.wr (.reg .sliceLen) v) = (if n < 2 ^ p.lenWidth then .ok [.write (.sliceLen n)]
      else .error .literalTooWide) ∧
    (∀ i : Fin 26, spell p (.wr (.txt i.val) v) =
      if n < 2 ^ 8 then .ok [.write (.txt i (BitVec.ofNat 8 n))] else .error .literalTooWide) ∧
    (∀ i : Fin 16, spell p (.wr (.slice i.val) v) =
      if n < 2 ^ 8 then .ok [.write (.slice i (BitVec.ofNat 8 n))] else .error .literalTooWide)) ∧
  (∀ n : Nat,
    spell p (.wr (.reg .ts) (.decimal false n)) = (if n < 2 ^ 63 then .ok [.write (.ts (BitVec.ofNat 64 n))]
      else .error .literalTooWide) ∧
    spell p (.wr (.reg .ts) (.decimal true n)) =
      (if n ≤ 2 ^ 63 then .ok [.write (.ts (BitVec.ofInt 64 (-(n : Int))))] else .error .literalTooWide) ∧
    spell p (.wr (.reg .ts) (.hexadecimal n)) = (if n < 2 ^ 64 then .ok [.write (.ts (BitVec.ofNat 64 n))]
      else .error .literalTooWide)) ∧
  (∀ (c : Byte) (i : Fin 26), spell p (.wr (.txt i.val) (.character c)) = .ok [.write (.txt i c)]) ∧
  (∀ (r : PortReg) (n : Nat), r ≠ .ts → writtenValue p r (.decimal true n) = .error .malformed) ∧
  (∀ (r : PortReg) (c : Byte), (∀ i, r ≠ .txt i) → writtenValue p r (.character c) = .error .malformed) ∧
  (∀ (i : Nat) (v : Literal), 26 ≤ i → spell p (.wr (.txt i) v) = .error .indexOutOfRange ∧
    spell p (.rd (.txt i)) = .error .indexOutOfRange) ∧
  (∀ (i : Nat) (v : Literal), 16 ≤ i → spell p (.wr (.slice i) v) = .error .indexOutOfRange ∧
    spell p (.rd (.slice i)) = .error .indexOutOfRange) ∧
  (∀ i : Fin 26, spell p (.rd (.txt i.val)) = .ok [.read (.txt i)]) ∧
  (∀ i : Fin 16, spell p (.rd (.slice i.val)) = .ok [.read (.slice i)]) ∧
  (∀ (vs : List Literal) (bs : List Byte), vs.Forall₂ (fun v b => UnsignedLiteral v b.toNat) bs →
    spell p (.wrBytesId vs) = (if bs.length = 16 then .ok [.write (.id (joinBytes bs))]
      else .error .wrongByteCount) ∧
    spell p (.wrBytesRnd vs) = (if bs.length = 10 then .ok [.write (.rnd ((joinBytes bs).setWidth 80))]
      else .error .wrongByteCount)) ∧
  (∀ cs : List Byte, (∀ i, cs.map fold ≠ mnemonicName i) → spell p (.mnemonic cs) = .error .unknownMnemonic) ∧
  (∀ (cs : List Byte) (i : Instr), cs.map fold = mnemonicName i →
    spell p (.mnemonic cs) = .ok [.issue (encode i)]) ∧
  (∀ r : PortReg, spell p (.rd (.reg r)) = .ok [.read r]) ∧
  (∀ e ∈ ([("ID", .id), ("TS", .ts), ("RND", .rnd), ("F1", .f1), ("F2", .f2), ("F3", .f3), ("F4", .f4),
      ("F5", .f5), ("U", .u), ("TXT_LEN", .txtLen), ("SLICE_LEN", .sliceLen), ("STATUS", .status),
      ("ERR_FOUND", .errFound)] : List (String × PortReg)),
    assembleLine p (ascii "RD " ++ ascii e.1) = .ok [.read e.2]) ∧
  spell p .rdStr = .ok ((List.finRange 26).map fun i => .read (.txt i)) ∧
  assembleLine p (ascii "RDSTR") = .ok ((List.finRange 26).map fun i => .read (.txt i)) ∧
  (∀ (line : List Byte) (e : AsmRefusal), 0x0A ∉ line → assembleLine p line = .error e →
    assemble p line = []) ∧
  assembleLine p (ascii "WR F2, 65536") = .error .literalTooWide ∧
  assembleLine p (ascii "WR F2, 0xFFFF") = .ok [.write (.f2 0xFFFF)] ∧
  assembleLine p (ascii "WR TXT[26], 'k'") = .error .indexOutOfRange ∧
  assembleLine p (ascii "WR TXT[25], 'k'") = .ok [.write (.txt 25 0x6B)] ∧
  assembleLine p (ascii "WR SLICE[16], 1") = .error .indexOutOfRange ∧
  assembleLine p (ascii "RD SLICE[15]") = .ok [.read (.slice 15)] ∧
  assembleLine p (ascii "WRBYTES ID, [1,2]") = .error .wrongByteCount ∧
  assembleLine p (ascii "HALT") = .error .unknownMnemonic ∧
  assembleLine p (ascii "WR TS, -1") = .ok [.write (.ts 0xFFFFFFFFFFFFFFFF)]

/-- For a text whose length fits LEN_WIDTH, WRSTR spells writes that run from any state to one where TXT[i] is
octet i of the text for every i below its length, the other elements stay, TXT_LEN is the length, and nothing
else changes, STATUS and ERR_FOUND included. The elements written and TXT_LEN then count as written, and every
other written bit stays. (derived: 30_encoding.md R63.) -/
def Obligations.WrstrWritesTheText : Prop :=
  ∀ (s : State) (text : List Byte), text.length < 2 ^ s.params.lenWidth →
    ∃ ops t, spell s.params (.wrStr text) = .ok ops ∧ ops.length = min text.length 26 + 1 ∧
      runInputs ops s = .next t ∧ t.txtLen = text.length ∧ t.status = s.status ∧
      t.errFound = s.errFound ∧ OnlyChanges ((List.finRange 26).map .txt ++ [.txtLen]) s t ∧
      (∀ i : Fin 26, t.txt[i] = text.getD i.val s.txt[i]) ∧
      t.written.txtLen = true ∧
      ∀ i : Fin 26, t.written.txt[i] = (s.written.txt[i] || decide (i.val < text.length))

/-- For a list of decimal or hexadecimal numbers below 256 whose length fits LEN_WIDTH, WRSLICE spells writes
that run from any state to one where SLICE[i] is number i for every i below the length, the other elements
stay, SLICE_LEN is the length, and nothing else changes. The elements written and SLICE_LEN then count as
written, and every other written bit stays. (derived: 30_encoding.md R63.) -/
def Obligations.WrsliceWritesTheSlice : Prop :=
  ∀ (s : State) (vs : List Literal) (bs : List Byte),
    vs.Forall₂ (fun v b => UnsignedLiteral v b.toNat) bs → bs.length < 2 ^ s.params.lenWidth →
    ∃ ops t, spell s.params (.wrSlice vs) = .ok ops ∧ ops.length = min bs.length 16 + 1 ∧
      runInputs ops s = .next t ∧ t.sliceLen = bs.length ∧ t.status = s.status ∧
      t.errFound = s.errFound ∧ OnlyChanges ((List.finRange 16).map .slice ++ [.sliceLen]) s t ∧
      (∀ i : Fin 16, t.slice[i] = bs.getD i.val s.slice[i]) ∧
      t.written.sliceLen = true ∧
      ∀ i : Fin 16, t.written.slice[i] = (s.written.slice[i] || decide (i.val < bs.length))

/-- The model's run of the empty sequence leaves the state, and its run of one input is modelPerform, which
faults at the first unwritten register the input reads. Where the model's run of a sequence of inputs reaches
a state, the block's run reaches the same one, and the model's run of further inputs goes on from there. Where
it ends in the model fault that names r, the model's run and the block's run of some inputs before both reach
one state, in which r is the first unwritten register that the next input reads, and any further inputs change
nothing of the fault. Where the block's run reaches a state and the model's does not, the model's ends in such
a fault. The fault stands beside the block's own step, which goes on (log entry 2, DESIGN CHOICE). (derived:
10_state.md R35, 60_exceptions.md R111, 70_reset_and_hazards.md R121.) -/
def Obligations.ModelRunFollowsTheBlock : Prop :=
  (∀ s : State, modelRun [] s = .next s) ∧
  (∀ (x : PortInput) (s : State), modelRun [x] s = modelPerform x s) ∧
  (∀ (x : PortInput) (s : State) (r : PortReg),
    modelPerform x s = .modelFault r ↔ s.firstUnwritten (registersRead x s) = some r) ∧
  ∀ (xs ys : List PortInput) (s : State),
    (∀ t, modelRun xs s = .next t → runInputs xs s = .next t ∧ modelRun (xs ++ ys) s = modelRun ys t) ∧
    (∀ r, modelRun xs s = .modelFault r → modelRun (xs ++ ys) s = .modelFault r ∧
      ∃ pre x post u, xs = pre ++ x :: post ∧ modelRun pre s = .next u ∧
        runInputs pre s = .next u ∧ u.firstUnwritten (registersRead x u) = some r) ∧
    ∀ t, runInputs xs s = .next t → modelRun xs s = .next t ∨ ∃ r, modelRun xs s = .modelFault r
end

