-- ==== Sys2Proof/Laws/State.lean ====
section
/-! SUPPORT. What every update of the state leaves in every field: one lemma per field per update, true by
definition. -/

namespace Sys2Proof.Machine

@[simp] theorem State.writeId_params (s : State) (v : BitVec 128) : (s.writeId v).params = s.params := rfl
@[simp] theorem State.writeId_id (s : State) (v : BitVec 128) : (s.writeId v).id = v := rfl
@[simp] theorem State.writeId_ts (s : State) (v : BitVec 128) : (s.writeId v).ts = s.ts := rfl
@[simp] theorem State.writeId_rnd (s : State) (v : BitVec 128) : (s.writeId v).rnd = s.rnd := rfl
@[simp] theorem State.writeId_f1 (s : State) (v : BitVec 128) : (s.writeId v).f1 = s.f1 := rfl
@[simp] theorem State.writeId_f2 (s : State) (v : BitVec 128) : (s.writeId v).f2 = s.f2 := rfl
@[simp] theorem State.writeId_f3 (s : State) (v : BitVec 128) : (s.writeId v).f3 = s.f3 := rfl
@[simp] theorem State.writeId_f4 (s : State) (v : BitVec 128) : (s.writeId v).f4 = s.f4 := rfl
@[simp] theorem State.writeId_f5 (s : State) (v : BitVec 128) : (s.writeId v).f5 = s.f5 := rfl
@[simp] theorem State.writeId_u (s : State) (v : BitVec 128) : (s.writeId v).u = s.u := rfl
@[simp] theorem State.writeId_txt (s : State) (v : BitVec 128) : (s.writeId v).txt = s.txt := rfl
@[simp] theorem State.writeId_txtLen (s : State) (v : BitVec 128) : (s.writeId v).txtLen = s.txtLen := rfl
@[simp] theorem State.writeId_slice (s : State) (v : BitVec 128) : (s.writeId v).slice = s.slice := rfl
@[simp] theorem State.writeId_sliceLen (s : State) (v : BitVec 128) : (s.writeId v).sliceLen = s.sliceLen := rfl
@[simp] theorem State.writeId_status (s : State) (v : BitVec 128) : (s.writeId v).status = s.status := rfl
@[simp] theorem State.writeId_errFound (s : State) (v : BitVec 128) : (s.writeId v).errFound = s.errFound := rfl
@[simp] theorem State.writeId_written (s : State) (v : BitVec 128) : (s.writeId v).written = { s.written with id := true } := rfl
@[simp] theorem State.writeId_port (s : State) (v : BitVec 128) : (s.writeId v).port = s.port := rfl
@[simp] theorem State.writeId_reads (s : State) (v : BitVec 128) : (s.writeId v).reads = s.reads := rfl

@[simp] theorem State.writeTs_params (s : State) (v : BitVec 64) : (s.writeTs v).params = s.params := rfl
@[simp] theorem State.writeTs_id (s : State) (v : BitVec 64) : (s.writeTs v).id = s.id := rfl
@[simp] theorem State.writeTs_ts (s : State) (v : BitVec 64) : (s.writeTs v).ts = v := rfl
@[simp] theorem State.writeTs_rnd (s : State) (v : BitVec 64) : (s.writeTs v).rnd = s.rnd := rfl
@[simp] theorem State.writeTs_f1 (s : State) (v : BitVec 64) : (s.writeTs v).f1 = s.f1 := rfl
@[simp] theorem State.writeTs_f2 (s : State) (v : BitVec 64) : (s.writeTs v).f2 = s.f2 := rfl
@[simp] theorem State.writeTs_f3 (s : State) (v : BitVec 64) : (s.writeTs v).f3 = s.f3 := rfl
@[simp] theorem State.writeTs_f4 (s : State) (v : BitVec 64) : (s.writeTs v).f4 = s.f4 := rfl
@[simp] theorem State.writeTs_f5 (s : State) (v : BitVec 64) : (s.writeTs v).f5 = s.f5 := rfl
@[simp] theorem State.writeTs_u (s : State) (v : BitVec 64) : (s.writeTs v).u = s.u := rfl
@[simp] theorem State.writeTs_txt (s : State) (v : BitVec 64) : (s.writeTs v).txt = s.txt := rfl
@[simp] theorem State.writeTs_txtLen (s : State) (v : BitVec 64) : (s.writeTs v).txtLen = s.txtLen := rfl
@[simp] theorem State.writeTs_slice (s : State) (v : BitVec 64) : (s.writeTs v).slice = s.slice := rfl
@[simp] theorem State.writeTs_sliceLen (s : State) (v : BitVec 64) : (s.writeTs v).sliceLen = s.sliceLen := rfl
@[simp] theorem State.writeTs_status (s : State) (v : BitVec 64) : (s.writeTs v).status = s.status := rfl
@[simp] theorem State.writeTs_errFound (s : State) (v : BitVec 64) : (s.writeTs v).errFound = s.errFound := rfl
@[simp] theorem State.writeTs_written (s : State) (v : BitVec 64) : (s.writeTs v).written = { s.written with ts := true } := rfl
@[simp] theorem State.writeTs_port (s : State) (v : BitVec 64) : (s.writeTs v).port = s.port := rfl
@[simp] theorem State.writeTs_reads (s : State) (v : BitVec 64) : (s.writeTs v).reads = s.reads := rfl

@[simp] theorem State.writeRnd_params (s : State) (v : BitVec 80) : (s.writeRnd v).params = s.params := rfl
@[simp] theorem State.writeRnd_id (s : State) (v : BitVec 80) : (s.writeRnd v).id = s.id := rfl
@[simp] theorem State.writeRnd_ts (s : State) (v : BitVec 80) : (s.writeRnd v).ts = s.ts := rfl
@[simp] theorem State.writeRnd_rnd (s : State) (v : BitVec 80) : (s.writeRnd v).rnd = v := rfl
@[simp] theorem State.writeRnd_f1 (s : State) (v : BitVec 80) : (s.writeRnd v).f1 = s.f1 := rfl
@[simp] theorem State.writeRnd_f2 (s : State) (v : BitVec 80) : (s.writeRnd v).f2 = s.f2 := rfl
@[simp] theorem State.writeRnd_f3 (s : State) (v : BitVec 80) : (s.writeRnd v).f3 = s.f3 := rfl
@[simp] theorem State.writeRnd_f4 (s : State) (v : BitVec 80) : (s.writeRnd v).f4 = s.f4 := rfl
@[simp] theorem State.writeRnd_f5 (s : State) (v : BitVec 80) : (s.writeRnd v).f5 = s.f5 := rfl
@[simp] theorem State.writeRnd_u (s : State) (v : BitVec 80) : (s.writeRnd v).u = s.u := rfl
@[simp] theorem State.writeRnd_txt (s : State) (v : BitVec 80) : (s.writeRnd v).txt = s.txt := rfl
@[simp] theorem State.writeRnd_txtLen (s : State) (v : BitVec 80) : (s.writeRnd v).txtLen = s.txtLen := rfl
@[simp] theorem State.writeRnd_slice (s : State) (v : BitVec 80) : (s.writeRnd v).slice = s.slice := rfl
@[simp] theorem State.writeRnd_sliceLen (s : State) (v : BitVec 80) : (s.writeRnd v).sliceLen = s.sliceLen := rfl
@[simp] theorem State.writeRnd_status (s : State) (v : BitVec 80) : (s.writeRnd v).status = s.status := rfl
@[simp] theorem State.writeRnd_errFound (s : State) (v : BitVec 80) : (s.writeRnd v).errFound = s.errFound := rfl
@[simp] theorem State.writeRnd_written (s : State) (v : BitVec 80) : (s.writeRnd v).written = { s.written with rnd := true } := rfl
@[simp] theorem State.writeRnd_port (s : State) (v : BitVec 80) : (s.writeRnd v).port = s.port := rfl
@[simp] theorem State.writeRnd_reads (s : State) (v : BitVec 80) : (s.writeRnd v).reads = s.reads := rfl

@[simp] theorem State.writeF1_params (s : State) (v : BitVec 32) : (s.writeF1 v).params = s.params := rfl
@[simp] theorem State.writeF1_id (s : State) (v : BitVec 32) : (s.writeF1 v).id = s.id := rfl
@[simp] theorem State.writeF1_ts (s : State) (v : BitVec 32) : (s.writeF1 v).ts = s.ts := rfl
@[simp] theorem State.writeF1_rnd (s : State) (v : BitVec 32) : (s.writeF1 v).rnd = s.rnd := rfl
@[simp] theorem State.writeF1_f1 (s : State) (v : BitVec 32) : (s.writeF1 v).f1 = v := rfl
@[simp] theorem State.writeF1_f2 (s : State) (v : BitVec 32) : (s.writeF1 v).f2 = s.f2 := rfl
@[simp] theorem State.writeF1_f3 (s : State) (v : BitVec 32) : (s.writeF1 v).f3 = s.f3 := rfl
@[simp] theorem State.writeF1_f4 (s : State) (v : BitVec 32) : (s.writeF1 v).f4 = s.f4 := rfl
@[simp] theorem State.writeF1_f5 (s : State) (v : BitVec 32) : (s.writeF1 v).f5 = s.f5 := rfl
@[simp] theorem State.writeF1_u (s : State) (v : BitVec 32) : (s.writeF1 v).u = s.u := rfl
@[simp] theorem State.writeF1_txt (s : State) (v : BitVec 32) : (s.writeF1 v).txt = s.txt := rfl
@[simp] theorem State.writeF1_txtLen (s : State) (v : BitVec 32) : (s.writeF1 v).txtLen = s.txtLen := rfl
@[simp] theorem State.writeF1_slice (s : State) (v : BitVec 32) : (s.writeF1 v).slice = s.slice := rfl
@[simp] theorem State.writeF1_sliceLen (s : State) (v : BitVec 32) : (s.writeF1 v).sliceLen = s.sliceLen := rfl
@[simp] theorem State.writeF1_status (s : State) (v : BitVec 32) : (s.writeF1 v).status = s.status := rfl
@[simp] theorem State.writeF1_errFound (s : State) (v : BitVec 32) : (s.writeF1 v).errFound = s.errFound := rfl
@[simp] theorem State.writeF1_written (s : State) (v : BitVec 32) : (s.writeF1 v).written = { s.written with f1 := true } := rfl
@[simp] theorem State.writeF1_port (s : State) (v : BitVec 32) : (s.writeF1 v).port = s.port := rfl
@[simp] theorem State.writeF1_reads (s : State) (v : BitVec 32) : (s.writeF1 v).reads = s.reads := rfl

@[simp] theorem State.writeF2_params (s : State) (v : BitVec 16) : (s.writeF2 v).params = s.params := rfl
@[simp] theorem State.writeF2_id (s : State) (v : BitVec 16) : (s.writeF2 v).id = s.id := rfl
@[simp] theorem State.writeF2_ts (s : State) (v : BitVec 16) : (s.writeF2 v).ts = s.ts := rfl
@[simp] theorem State.writeF2_rnd (s : State) (v : BitVec 16) : (s.writeF2 v).rnd = s.rnd := rfl
@[simp] theorem State.writeF2_f1 (s : State) (v : BitVec 16) : (s.writeF2 v).f1 = s.f1 := rfl
@[simp] theorem State.writeF2_f2 (s : State) (v : BitVec 16) : (s.writeF2 v).f2 = v := rfl
@[simp] theorem State.writeF2_f3 (s : State) (v : BitVec 16) : (s.writeF2 v).f3 = s.f3 := rfl
@[simp] theorem State.writeF2_f4 (s : State) (v : BitVec 16) : (s.writeF2 v).f4 = s.f4 := rfl
@[simp] theorem State.writeF2_f5 (s : State) (v : BitVec 16) : (s.writeF2 v).f5 = s.f5 := rfl
@[simp] theorem State.writeF2_u (s : State) (v : BitVec 16) : (s.writeF2 v).u = s.u := rfl
@[simp] theorem State.writeF2_txt (s : State) (v : BitVec 16) : (s.writeF2 v).txt = s.txt := rfl
@[simp] theorem State.writeF2_txtLen (s : State) (v : BitVec 16) : (s.writeF2 v).txtLen = s.txtLen := rfl
@[simp] theorem State.writeF2_slice (s : State) (v : BitVec 16) : (s.writeF2 v).slice = s.slice := rfl
@[simp] theorem State.writeF2_sliceLen (s : State) (v : BitVec 16) : (s.writeF2 v).sliceLen = s.sliceLen := rfl
@[simp] theorem State.writeF2_status (s : State) (v : BitVec 16) : (s.writeF2 v).status = s.status := rfl
@[simp] theorem State.writeF2_errFound (s : State) (v : BitVec 16) : (s.writeF2 v).errFound = s.errFound := rfl
@[simp] theorem State.writeF2_written (s : State) (v : BitVec 16) : (s.writeF2 v).written = { s.written with f2 := true } := rfl
@[simp] theorem State.writeF2_port (s : State) (v : BitVec 16) : (s.writeF2 v).port = s.port := rfl
@[simp] theorem State.writeF2_reads (s : State) (v : BitVec 16) : (s.writeF2 v).reads = s.reads := rfl

@[simp] theorem State.writeF3_params (s : State) (v : BitVec 16) : (s.writeF3 v).params = s.params := rfl
@[simp] theorem State.writeF3_id (s : State) (v : BitVec 16) : (s.writeF3 v).id = s.id := rfl
@[simp] theorem State.writeF3_ts (s : State) (v : BitVec 16) : (s.writeF3 v).ts = s.ts := rfl
@[simp] theorem State.writeF3_rnd (s : State) (v : BitVec 16) : (s.writeF3 v).rnd = s.rnd := rfl
@[simp] theorem State.writeF3_f1 (s : State) (v : BitVec 16) : (s.writeF3 v).f1 = s.f1 := rfl
@[simp] theorem State.writeF3_f2 (s : State) (v : BitVec 16) : (s.writeF3 v).f2 = s.f2 := rfl
@[simp] theorem State.writeF3_f3 (s : State) (v : BitVec 16) : (s.writeF3 v).f3 = v := rfl
@[simp] theorem State.writeF3_f4 (s : State) (v : BitVec 16) : (s.writeF3 v).f4 = s.f4 := rfl
@[simp] theorem State.writeF3_f5 (s : State) (v : BitVec 16) : (s.writeF3 v).f5 = s.f5 := rfl
@[simp] theorem State.writeF3_u (s : State) (v : BitVec 16) : (s.writeF3 v).u = s.u := rfl
@[simp] theorem State.writeF3_txt (s : State) (v : BitVec 16) : (s.writeF3 v).txt = s.txt := rfl
@[simp] theorem State.writeF3_txtLen (s : State) (v : BitVec 16) : (s.writeF3 v).txtLen = s.txtLen := rfl
@[simp] theorem State.writeF3_slice (s : State) (v : BitVec 16) : (s.writeF3 v).slice = s.slice := rfl
@[simp] theorem State.writeF3_sliceLen (s : State) (v : BitVec 16) : (s.writeF3 v).sliceLen = s.sliceLen := rfl
@[simp] theorem State.writeF3_status (s : State) (v : BitVec 16) : (s.writeF3 v).status = s.status := rfl
@[simp] theorem State.writeF3_errFound (s : State) (v : BitVec 16) : (s.writeF3 v).errFound = s.errFound := rfl
@[simp] theorem State.writeF3_written (s : State) (v : BitVec 16) : (s.writeF3 v).written = { s.written with f3 := true } := rfl
@[simp] theorem State.writeF3_port (s : State) (v : BitVec 16) : (s.writeF3 v).port = s.port := rfl
@[simp] theorem State.writeF3_reads (s : State) (v : BitVec 16) : (s.writeF3 v).reads = s.reads := rfl

@[simp] theorem State.writeF4_params (s : State) (v : BitVec 32) : (s.writeF4 v).params = s.params := rfl
@[simp] theorem State.writeF4_id (s : State) (v : BitVec 32) : (s.writeF4 v).id = s.id := rfl
@[simp] theorem State.writeF4_ts (s : State) (v : BitVec 32) : (s.writeF4 v).ts = s.ts := rfl
@[simp] theorem State.writeF4_rnd (s : State) (v : BitVec 32) : (s.writeF4 v).rnd = s.rnd := rfl
@[simp] theorem State.writeF4_f1 (s : State) (v : BitVec 32) : (s.writeF4 v).f1 = s.f1 := rfl
@[simp] theorem State.writeF4_f2 (s : State) (v : BitVec 32) : (s.writeF4 v).f2 = s.f2 := rfl
@[simp] theorem State.writeF4_f3 (s : State) (v : BitVec 32) : (s.writeF4 v).f3 = s.f3 := rfl
@[simp] theorem State.writeF4_f4 (s : State) (v : BitVec 32) : (s.writeF4 v).f4 = v := rfl
@[simp] theorem State.writeF4_f5 (s : State) (v : BitVec 32) : (s.writeF4 v).f5 = s.f5 := rfl
@[simp] theorem State.writeF4_u (s : State) (v : BitVec 32) : (s.writeF4 v).u = s.u := rfl
@[simp] theorem State.writeF4_txt (s : State) (v : BitVec 32) : (s.writeF4 v).txt = s.txt := rfl
@[simp] theorem State.writeF4_txtLen (s : State) (v : BitVec 32) : (s.writeF4 v).txtLen = s.txtLen := rfl
@[simp] theorem State.writeF4_slice (s : State) (v : BitVec 32) : (s.writeF4 v).slice = s.slice := rfl
@[simp] theorem State.writeF4_sliceLen (s : State) (v : BitVec 32) : (s.writeF4 v).sliceLen = s.sliceLen := rfl
@[simp] theorem State.writeF4_status (s : State) (v : BitVec 32) : (s.writeF4 v).status = s.status := rfl
@[simp] theorem State.writeF4_errFound (s : State) (v : BitVec 32) : (s.writeF4 v).errFound = s.errFound := rfl
@[simp] theorem State.writeF4_written (s : State) (v : BitVec 32) : (s.writeF4 v).written = { s.written with f4 := true } := rfl
@[simp] theorem State.writeF4_port (s : State) (v : BitVec 32) : (s.writeF4 v).port = s.port := rfl
@[simp] theorem State.writeF4_reads (s : State) (v : BitVec 32) : (s.writeF4 v).reads = s.reads := rfl

@[simp] theorem State.writeF5_params (s : State) (v : BitVec 32) : (s.writeF5 v).params = s.params := rfl
@[simp] theorem State.writeF5_id (s : State) (v : BitVec 32) : (s.writeF5 v).id = s.id := rfl
@[simp] theorem State.writeF5_ts (s : State) (v : BitVec 32) : (s.writeF5 v).ts = s.ts := rfl
@[simp] theorem State.writeF5_rnd (s : State) (v : BitVec 32) : (s.writeF5 v).rnd = s.rnd := rfl
@[simp] theorem State.writeF5_f1 (s : State) (v : BitVec 32) : (s.writeF5 v).f1 = s.f1 := rfl
@[simp] theorem State.writeF5_f2 (s : State) (v : BitVec 32) : (s.writeF5 v).f2 = s.f2 := rfl
@[simp] theorem State.writeF5_f3 (s : State) (v : BitVec 32) : (s.writeF5 v).f3 = s.f3 := rfl
@[simp] theorem State.writeF5_f4 (s : State) (v : BitVec 32) : (s.writeF5 v).f4 = s.f4 := rfl
@[simp] theorem State.writeF5_f5 (s : State) (v : BitVec 32) : (s.writeF5 v).f5 = v := rfl
@[simp] theorem State.writeF5_u (s : State) (v : BitVec 32) : (s.writeF5 v).u = s.u := rfl
@[simp] theorem State.writeF5_txt (s : State) (v : BitVec 32) : (s.writeF5 v).txt = s.txt := rfl
@[simp] theorem State.writeF5_txtLen (s : State) (v : BitVec 32) : (s.writeF5 v).txtLen = s.txtLen := rfl
@[simp] theorem State.writeF5_slice (s : State) (v : BitVec 32) : (s.writeF5 v).slice = s.slice := rfl
@[simp] theorem State.writeF5_sliceLen (s : State) (v : BitVec 32) : (s.writeF5 v).sliceLen = s.sliceLen := rfl
@[simp] theorem State.writeF5_status (s : State) (v : BitVec 32) : (s.writeF5 v).status = s.status := rfl
@[simp] theorem State.writeF5_errFound (s : State) (v : BitVec 32) : (s.writeF5 v).errFound = s.errFound := rfl
@[simp] theorem State.writeF5_written (s : State) (v : BitVec 32) : (s.writeF5 v).written = { s.written with f5 := true } := rfl
@[simp] theorem State.writeF5_port (s : State) (v : BitVec 32) : (s.writeF5 v).port = s.port := rfl
@[simp] theorem State.writeF5_reads (s : State) (v : BitVec 32) : (s.writeF5 v).reads = s.reads := rfl

@[simp] theorem State.writeU_params (s : State) (v : BitVec 128) : (s.writeU v).params = s.params := rfl
@[simp] theorem State.writeU_id (s : State) (v : BitVec 128) : (s.writeU v).id = s.id := rfl
@[simp] theorem State.writeU_ts (s : State) (v : BitVec 128) : (s.writeU v).ts = s.ts := rfl
@[simp] theorem State.writeU_rnd (s : State) (v : BitVec 128) : (s.writeU v).rnd = s.rnd := rfl
@[simp] theorem State.writeU_f1 (s : State) (v : BitVec 128) : (s.writeU v).f1 = s.f1 := rfl
@[simp] theorem State.writeU_f2 (s : State) (v : BitVec 128) : (s.writeU v).f2 = s.f2 := rfl
@[simp] theorem State.writeU_f3 (s : State) (v : BitVec 128) : (s.writeU v).f3 = s.f3 := rfl
@[simp] theorem State.writeU_f4 (s : State) (v : BitVec 128) : (s.writeU v).f4 = s.f4 := rfl
@[simp] theorem State.writeU_f5 (s : State) (v : BitVec 128) : (s.writeU v).f5 = s.f5 := rfl
@[simp] theorem State.writeU_u (s : State) (v : BitVec 128) : (s.writeU v).u = v := rfl
@[simp] theorem State.writeU_txt (s : State) (v : BitVec 128) : (s.writeU v).txt = s.txt := rfl
@[simp] theorem State.writeU_txtLen (s : State) (v : BitVec 128) : (s.writeU v).txtLen = s.txtLen := rfl
@[simp] theorem State.writeU_slice (s : State) (v : BitVec 128) : (s.writeU v).slice = s.slice := rfl
@[simp] theorem State.writeU_sliceLen (s : State) (v : BitVec 128) : (s.writeU v).sliceLen = s.sliceLen := rfl
@[simp] theorem State.writeU_status (s : State) (v : BitVec 128) : (s.writeU v).status = s.status := rfl
@[simp] theorem State.writeU_errFound (s : State) (v : BitVec 128) : (s.writeU v).errFound = s.errFound := rfl
@[simp] theorem State.writeU_written (s : State) (v : BitVec 128) : (s.writeU v).written = { s.written with u := true } := rfl
@[simp] theorem State.writeU_port (s : State) (v : BitVec 128) : (s.writeU v).port = s.port := rfl
@[simp] theorem State.writeU_reads (s : State) (v : BitVec 128) : (s.writeU v).reads = s.reads := rfl

@[simp] theorem State.writeTxtLen_params (s : State) (n : Nat) : (s.writeTxtLen n).params = s.params := rfl
@[simp] theorem State.writeTxtLen_id (s : State) (n : Nat) : (s.writeTxtLen n).id = s.id := rfl
@[simp] theorem State.writeTxtLen_ts (s : State) (n : Nat) : (s.writeTxtLen n).ts = s.ts := rfl
@[simp] theorem State.writeTxtLen_rnd (s : State) (n : Nat) : (s.writeTxtLen n).rnd = s.rnd := rfl
@[simp] theorem State.writeTxtLen_f1 (s : State) (n : Nat) : (s.writeTxtLen n).f1 = s.f1 := rfl
@[simp] theorem State.writeTxtLen_f2 (s : State) (n : Nat) : (s.writeTxtLen n).f2 = s.f2 := rfl
@[simp] theorem State.writeTxtLen_f3 (s : State) (n : Nat) : (s.writeTxtLen n).f3 = s.f3 := rfl
@[simp] theorem State.writeTxtLen_f4 (s : State) (n : Nat) : (s.writeTxtLen n).f4 = s.f4 := rfl
@[simp] theorem State.writeTxtLen_f5 (s : State) (n : Nat) : (s.writeTxtLen n).f5 = s.f5 := rfl
@[simp] theorem State.writeTxtLen_u (s : State) (n : Nat) : (s.writeTxtLen n).u = s.u := rfl
@[simp] theorem State.writeTxtLen_txt (s : State) (n : Nat) : (s.writeTxtLen n).txt = s.txt := rfl
@[simp] theorem State.writeTxtLen_txtLen (s : State) (n : Nat) : (s.writeTxtLen n).txtLen = n := rfl
@[simp] theorem State.writeTxtLen_slice (s : State) (n : Nat) : (s.writeTxtLen n).slice = s.slice := rfl
@[simp] theorem State.writeTxtLen_sliceLen (s : State) (n : Nat) : (s.writeTxtLen n).sliceLen = s.sliceLen := rfl
@[simp] theorem State.writeTxtLen_status (s : State) (n : Nat) : (s.writeTxtLen n).status = s.status := rfl
@[simp] theorem State.writeTxtLen_errFound (s : State) (n : Nat) : (s.writeTxtLen n).errFound = s.errFound := rfl
@[simp] theorem State.writeTxtLen_written (s : State) (n : Nat) : (s.writeTxtLen n).written = { s.written with txtLen := true } := rfl
@[simp] theorem State.writeTxtLen_port (s : State) (n : Nat) : (s.writeTxtLen n).port = s.port := rfl
@[simp] theorem State.writeTxtLen_reads (s : State) (n : Nat) : (s.writeTxtLen n).reads = s.reads := rfl

@[simp] theorem State.writeSliceLen_params (s : State) (n : Nat) : (s.writeSliceLen n).params = s.params := rfl
@[simp] theorem State.writeSliceLen_id (s : State) (n : Nat) : (s.writeSliceLen n).id = s.id := rfl
@[simp] theorem State.writeSliceLen_ts (s : State) (n : Nat) : (s.writeSliceLen n).ts = s.ts := rfl
@[simp] theorem State.writeSliceLen_rnd (s : State) (n : Nat) : (s.writeSliceLen n).rnd = s.rnd := rfl
@[simp] theorem State.writeSliceLen_f1 (s : State) (n : Nat) : (s.writeSliceLen n).f1 = s.f1 := rfl
@[simp] theorem State.writeSliceLen_f2 (s : State) (n : Nat) : (s.writeSliceLen n).f2 = s.f2 := rfl
@[simp] theorem State.writeSliceLen_f3 (s : State) (n : Nat) : (s.writeSliceLen n).f3 = s.f3 := rfl
@[simp] theorem State.writeSliceLen_f4 (s : State) (n : Nat) : (s.writeSliceLen n).f4 = s.f4 := rfl
@[simp] theorem State.writeSliceLen_f5 (s : State) (n : Nat) : (s.writeSliceLen n).f5 = s.f5 := rfl
@[simp] theorem State.writeSliceLen_u (s : State) (n : Nat) : (s.writeSliceLen n).u = s.u := rfl
@[simp] theorem State.writeSliceLen_txt (s : State) (n : Nat) : (s.writeSliceLen n).txt = s.txt := rfl
@[simp] theorem State.writeSliceLen_txtLen (s : State) (n : Nat) : (s.writeSliceLen n).txtLen = s.txtLen := rfl
@[simp] theorem State.writeSliceLen_slice (s : State) (n : Nat) : (s.writeSliceLen n).slice = s.slice := rfl
@[simp] theorem State.writeSliceLen_sliceLen (s : State) (n : Nat) : (s.writeSliceLen n).sliceLen = n := rfl
@[simp] theorem State.writeSliceLen_status (s : State) (n : Nat) : (s.writeSliceLen n).status = s.status := rfl
@[simp] theorem State.writeSliceLen_errFound (s : State) (n : Nat) : (s.writeSliceLen n).errFound = s.errFound := rfl
@[simp] theorem State.writeSliceLen_written (s : State) (n : Nat) : (s.writeSliceLen n).written = { s.written with sliceLen := true } := rfl
@[simp] theorem State.writeSliceLen_port (s : State) (n : Nat) : (s.writeSliceLen n).port = s.port := rfl
@[simp] theorem State.writeSliceLen_reads (s : State) (n : Nat) : (s.writeSliceLen n).reads = s.reads := rfl

@[simp] theorem State.writeTxt_params (s : State) (v : Vector Byte 26) : (s.writeTxt v).params = s.params := rfl
@[simp] theorem State.writeTxt_id (s : State) (v : Vector Byte 26) : (s.writeTxt v).id = s.id := rfl
@[simp] theorem State.writeTxt_ts (s : State) (v : Vector Byte 26) : (s.writeTxt v).ts = s.ts := rfl
@[simp] theorem State.writeTxt_rnd (s : State) (v : Vector Byte 26) : (s.writeTxt v).rnd = s.rnd := rfl
@[simp] theorem State.writeTxt_f1 (s : State) (v : Vector Byte 26) : (s.writeTxt v).f1 = s.f1 := rfl
@[simp] theorem State.writeTxt_f2 (s : State) (v : Vector Byte 26) : (s.writeTxt v).f2 = s.f2 := rfl
@[simp] theorem State.writeTxt_f3 (s : State) (v : Vector Byte 26) : (s.writeTxt v).f3 = s.f3 := rfl
@[simp] theorem State.writeTxt_f4 (s : State) (v : Vector Byte 26) : (s.writeTxt v).f4 = s.f4 := rfl
@[simp] theorem State.writeTxt_f5 (s : State) (v : Vector Byte 26) : (s.writeTxt v).f5 = s.f5 := rfl
@[simp] theorem State.writeTxt_u (s : State) (v : Vector Byte 26) : (s.writeTxt v).u = s.u := rfl
@[simp] theorem State.writeTxt_txt (s : State) (v : Vector Byte 26) : (s.writeTxt v).txt = v := rfl
@[simp] theorem State.writeTxt_txtLen (s : State) (v : Vector Byte 26) : (s.writeTxt v).txtLen = s.txtLen := rfl
@[simp] theorem State.writeTxt_slice (s : State) (v : Vector Byte 26) : (s.writeTxt v).slice = s.slice := rfl
@[simp] theorem State.writeTxt_sliceLen (s : State) (v : Vector Byte 26) : (s.writeTxt v).sliceLen = s.sliceLen := rfl
@[simp] theorem State.writeTxt_status (s : State) (v : Vector Byte 26) : (s.writeTxt v).status = s.status := rfl
@[simp] theorem State.writeTxt_errFound (s : State) (v : Vector Byte 26) : (s.writeTxt v).errFound = s.errFound := rfl
@[simp] theorem State.writeTxt_written (s : State) (v : Vector Byte 26) : (s.writeTxt v).written = { s.written with txt := Vector.replicate 26 true } := rfl
@[simp] theorem State.writeTxt_port (s : State) (v : Vector Byte 26) : (s.writeTxt v).port = s.port := rfl
@[simp] theorem State.writeTxt_reads (s : State) (v : Vector Byte 26) : (s.writeTxt v).reads = s.reads := rfl

@[simp] theorem State.writeTxtAt_params (s : State) (i : Fin 26) (v : Byte) : (s.writeTxtAt i v).params = s.params := rfl
@[simp] theorem State.writeTxtAt_id (s : State) (i : Fin 26) (v : Byte) : (s.writeTxtAt i v).id = s.id := rfl
@[simp] theorem State.writeTxtAt_ts (s : State) (i : Fin 26) (v : Byte) : (s.writeTxtAt i v).ts = s.ts := rfl
@[simp] theorem State.writeTxtAt_rnd (s : State) (i : Fin 26) (v : Byte) : (s.writeTxtAt i v).rnd = s.rnd := rfl
@[simp] theorem State.writeTxtAt_f1 (s : State) (i : Fin 26) (v : Byte) : (s.writeTxtAt i v).f1 = s.f1 := rfl
@[simp] theorem State.writeTxtAt_f2 (s : State) (i : Fin 26) (v : Byte) : (s.writeTxtAt i v).f2 = s.f2 := rfl
@[simp] theorem State.writeTxtAt_f3 (s : State) (i : Fin 26) (v : Byte) : (s.writeTxtAt i v).f3 = s.f3 := rfl
@[simp] theorem State.writeTxtAt_f4 (s : State) (i : Fin 26) (v : Byte) : (s.writeTxtAt i v).f4 = s.f4 := rfl
@[simp] theorem State.writeTxtAt_f5 (s : State) (i : Fin 26) (v : Byte) : (s.writeTxtAt i v).f5 = s.f5 := rfl
@[simp] theorem State.writeTxtAt_u (s : State) (i : Fin 26) (v : Byte) : (s.writeTxtAt i v).u = s.u := rfl
@[simp] theorem State.writeTxtAt_txt (s : State) (i : Fin 26) (v : Byte) : (s.writeTxtAt i v).txt = s.txt.set i v := rfl
@[simp] theorem State.writeTxtAt_txtLen (s : State) (i : Fin 26) (v : Byte) : (s.writeTxtAt i v).txtLen = s.txtLen := rfl
@[simp] theorem State.writeTxtAt_slice (s : State) (i : Fin 26) (v : Byte) : (s.writeTxtAt i v).slice = s.slice := rfl
@[simp] theorem State.writeTxtAt_sliceLen (s : State) (i : Fin 26) (v : Byte) : (s.writeTxtAt i v).sliceLen = s.sliceLen := rfl
@[simp] theorem State.writeTxtAt_status (s : State) (i : Fin 26) (v : Byte) : (s.writeTxtAt i v).status = s.status := rfl
@[simp] theorem State.writeTxtAt_errFound (s : State) (i : Fin 26) (v : Byte) : (s.writeTxtAt i v).errFound = s.errFound := rfl
@[simp] theorem State.writeTxtAt_written (s : State) (i : Fin 26) (v : Byte) : (s.writeTxtAt i v).written = { s.written with txt := s.written.txt.set i true } := rfl
@[simp] theorem State.writeTxtAt_port (s : State) (i : Fin 26) (v : Byte) : (s.writeTxtAt i v).port = s.port := rfl
@[simp] theorem State.writeTxtAt_reads (s : State) (i : Fin 26) (v : Byte) : (s.writeTxtAt i v).reads = s.reads := rfl

@[simp] theorem State.writeSliceAt_params (s : State) (i : Fin 16) (v : Byte) : (s.writeSliceAt i v).params = s.params := rfl
@[simp] theorem State.writeSliceAt_id (s : State) (i : Fin 16) (v : Byte) : (s.writeSliceAt i v).id = s.id := rfl
@[simp] theorem State.writeSliceAt_ts (s : State) (i : Fin 16) (v : Byte) : (s.writeSliceAt i v).ts = s.ts := rfl
@[simp] theorem State.writeSliceAt_rnd (s : State) (i : Fin 16) (v : Byte) : (s.writeSliceAt i v).rnd = s.rnd := rfl
@[simp] theorem State.writeSliceAt_f1 (s : State) (i : Fin 16) (v : Byte) : (s.writeSliceAt i v).f1 = s.f1 := rfl
@[simp] theorem State.writeSliceAt_f2 (s : State) (i : Fin 16) (v : Byte) : (s.writeSliceAt i v).f2 = s.f2 := rfl
@[simp] theorem State.writeSliceAt_f3 (s : State) (i : Fin 16) (v : Byte) : (s.writeSliceAt i v).f3 = s.f3 := rfl
@[simp] theorem State.writeSliceAt_f4 (s : State) (i : Fin 16) (v : Byte) : (s.writeSliceAt i v).f4 = s.f4 := rfl
@[simp] theorem State.writeSliceAt_f5 (s : State) (i : Fin 16) (v : Byte) : (s.writeSliceAt i v).f5 = s.f5 := rfl
@[simp] theorem State.writeSliceAt_u (s : State) (i : Fin 16) (v : Byte) : (s.writeSliceAt i v).u = s.u := rfl
@[simp] theorem State.writeSliceAt_txt (s : State) (i : Fin 16) (v : Byte) : (s.writeSliceAt i v).txt = s.txt := rfl
@[simp] theorem State.writeSliceAt_txtLen (s : State) (i : Fin 16) (v : Byte) : (s.writeSliceAt i v).txtLen = s.txtLen := rfl
@[simp] theorem State.writeSliceAt_slice (s : State) (i : Fin 16) (v : Byte) : (s.writeSliceAt i v).slice = s.slice.set i v := rfl
@[simp] theorem State.writeSliceAt_sliceLen (s : State) (i : Fin 16) (v : Byte) : (s.writeSliceAt i v).sliceLen = s.sliceLen := rfl
@[simp] theorem State.writeSliceAt_status (s : State) (i : Fin 16) (v : Byte) : (s.writeSliceAt i v).status = s.status := rfl
@[simp] theorem State.writeSliceAt_errFound (s : State) (i : Fin 16) (v : Byte) : (s.writeSliceAt i v).errFound = s.errFound := rfl
@[simp] theorem State.writeSliceAt_written (s : State) (i : Fin 16) (v : Byte) : (s.writeSliceAt i v).written = { s.written with slice := s.written.slice.set i true } := rfl
@[simp] theorem State.writeSliceAt_port (s : State) (i : Fin 16) (v : Byte) : (s.writeSliceAt i v).port = s.port := rfl
@[simp] theorem State.writeSliceAt_reads (s : State) (i : Fin 16) (v : Byte) : (s.writeSliceAt i v).reads = s.reads := rfl

@[simp] theorem State.setStatus_params (s : State) (k : CommandStatus) : (s.setStatus k).params = s.params := rfl
@[simp] theorem State.setStatus_id (s : State) (k : CommandStatus) : (s.setStatus k).id = s.id := rfl
@[simp] theorem State.setStatus_ts (s : State) (k : CommandStatus) : (s.setStatus k).ts = s.ts := rfl
@[simp] theorem State.setStatus_rnd (s : State) (k : CommandStatus) : (s.setStatus k).rnd = s.rnd := rfl
@[simp] theorem State.setStatus_f1 (s : State) (k : CommandStatus) : (s.setStatus k).f1 = s.f1 := rfl
@[simp] theorem State.setStatus_f2 (s : State) (k : CommandStatus) : (s.setStatus k).f2 = s.f2 := rfl
@[simp] theorem State.setStatus_f3 (s : State) (k : CommandStatus) : (s.setStatus k).f3 = s.f3 := rfl
@[simp] theorem State.setStatus_f4 (s : State) (k : CommandStatus) : (s.setStatus k).f4 = s.f4 := rfl
@[simp] theorem State.setStatus_f5 (s : State) (k : CommandStatus) : (s.setStatus k).f5 = s.f5 := rfl
@[simp] theorem State.setStatus_u (s : State) (k : CommandStatus) : (s.setStatus k).u = s.u := rfl
@[simp] theorem State.setStatus_txt (s : State) (k : CommandStatus) : (s.setStatus k).txt = s.txt := rfl
@[simp] theorem State.setStatus_txtLen (s : State) (k : CommandStatus) : (s.setStatus k).txtLen = s.txtLen := rfl
@[simp] theorem State.setStatus_slice (s : State) (k : CommandStatus) : (s.setStatus k).slice = s.slice := rfl
@[simp] theorem State.setStatus_sliceLen (s : State) (k : CommandStatus) : (s.setStatus k).sliceLen = s.sliceLen := rfl
@[simp] theorem State.setStatus_status (s : State) (k : CommandStatus) : (s.setStatus k).status = k.word := rfl
@[simp] theorem State.setStatus_errFound (s : State) (k : CommandStatus) : (s.setStatus k).errFound = k.found := rfl
@[simp] theorem State.setStatus_written (s : State) (k : CommandStatus) : (s.setStatus k).written = s.written := rfl
@[simp] theorem State.setStatus_port (s : State) (k : CommandStatus) : (s.setStatus k).port = s.port := rfl
@[simp] theorem State.setStatus_reads (s : State) (k : CommandStatus) : (s.setStatus k).reads = s.reads := rfl

@[simp] theorem State.raise_params (s : State) (k : CommandStatus) : (s.raise k).params = s.params := rfl
@[simp] theorem State.raise_id (s : State) (k : CommandStatus) : (s.raise k).id = s.id := rfl
@[simp] theorem State.raise_ts (s : State) (k : CommandStatus) : (s.raise k).ts = s.ts := rfl
@[simp] theorem State.raise_rnd (s : State) (k : CommandStatus) : (s.raise k).rnd = s.rnd := rfl
@[simp] theorem State.raise_f1 (s : State) (k : CommandStatus) : (s.raise k).f1 = s.f1 := rfl
@[simp] theorem State.raise_f2 (s : State) (k : CommandStatus) : (s.raise k).f2 = s.f2 := rfl
@[simp] theorem State.raise_f3 (s : State) (k : CommandStatus) : (s.raise k).f3 = s.f3 := rfl
@[simp] theorem State.raise_f4 (s : State) (k : CommandStatus) : (s.raise k).f4 = s.f4 := rfl
@[simp] theorem State.raise_f5 (s : State) (k : CommandStatus) : (s.raise k).f5 = s.f5 := rfl
@[simp] theorem State.raise_u (s : State) (k : CommandStatus) : (s.raise k).u = s.u := rfl
@[simp] theorem State.raise_txt (s : State) (k : CommandStatus) : (s.raise k).txt = s.txt := rfl
@[simp] theorem State.raise_txtLen (s : State) (k : CommandStatus) : (s.raise k).txtLen = s.txtLen := rfl
@[simp] theorem State.raise_slice (s : State) (k : CommandStatus) : (s.raise k).slice = s.slice := rfl
@[simp] theorem State.raise_sliceLen (s : State) (k : CommandStatus) : (s.raise k).sliceLen = s.sliceLen := rfl
@[simp] theorem State.raise_status (s : State) (k : CommandStatus) : (s.raise k).status = k.word := rfl
@[simp] theorem State.raise_errFound (s : State) (k : CommandStatus) : (s.raise k).errFound = k.found := rfl
@[simp] theorem State.raise_written (s : State) (k : CommandStatus) : (s.raise k).written = s.written := rfl
@[simp] theorem State.raise_port (s : State) (k : CommandStatus) : (s.raise k).port = s.port := rfl
@[simp] theorem State.raise_reads (s : State) (k : CommandStatus) : (s.raise k).reads = s.reads := rfl

@[simp] theorem State.recordRead_params (s : State) (v : PortValue) : (s.recordRead v).params = s.params := rfl
@[simp] theorem State.recordRead_id (s : State) (v : PortValue) : (s.recordRead v).id = s.id := rfl
@[simp] theorem State.recordRead_ts (s : State) (v : PortValue) : (s.recordRead v).ts = s.ts := rfl
@[simp] theorem State.recordRead_rnd (s : State) (v : PortValue) : (s.recordRead v).rnd = s.rnd := rfl
@[simp] theorem State.recordRead_f1 (s : State) (v : PortValue) : (s.recordRead v).f1 = s.f1 := rfl
@[simp] theorem State.recordRead_f2 (s : State) (v : PortValue) : (s.recordRead v).f2 = s.f2 := rfl
@[simp] theorem State.recordRead_f3 (s : State) (v : PortValue) : (s.recordRead v).f3 = s.f3 := rfl
@[simp] theorem State.recordRead_f4 (s : State) (v : PortValue) : (s.recordRead v).f4 = s.f4 := rfl
@[simp] theorem State.recordRead_f5 (s : State) (v : PortValue) : (s.recordRead v).f5 = s.f5 := rfl
@[simp] theorem State.recordRead_u (s : State) (v : PortValue) : (s.recordRead v).u = s.u := rfl
@[simp] theorem State.recordRead_txt (s : State) (v : PortValue) : (s.recordRead v).txt = s.txt := rfl
@[simp] theorem State.recordRead_txtLen (s : State) (v : PortValue) : (s.recordRead v).txtLen = s.txtLen := rfl
@[simp] theorem State.recordRead_slice (s : State) (v : PortValue) : (s.recordRead v).slice = s.slice := rfl
@[simp] theorem State.recordRead_sliceLen (s : State) (v : PortValue) : (s.recordRead v).sliceLen = s.sliceLen := rfl
@[simp] theorem State.recordRead_status (s : State) (v : PortValue) : (s.recordRead v).status = s.status := rfl
@[simp] theorem State.recordRead_errFound (s : State) (v : PortValue) : (s.recordRead v).errFound = s.errFound := rfl
@[simp] theorem State.recordRead_written (s : State) (v : PortValue) : (s.recordRead v).written = s.written := rfl
@[simp] theorem State.recordRead_port (s : State) (v : PortValue) : (s.recordRead v).port = s.port := rfl
@[simp] theorem State.recordRead_reads (s : State) (v : PortValue) : (s.recordRead v).reads = s.reads ++ [v] := rfl

end Sys2Proof.Machine
end

