-- ==== Sys2Proof/Laws/Assembly.lean ====
section
/-! SUPPORT. Laws of the host assembly: how a line parts into tokens, what digits a number has, what lists of
literals spell, and what a row of element writes leaves. -/

namespace Sys2Proof.Machine

-- 1. Lexing

/-- An octet of a word is none of those that part tokens. -/
theorem isWordOctet_ne_separator {c : Byte} (h : isWordOctet c = true) :
    ¬(c = 0x20 ∨ c = 0x09 ∨ c = 0x0D) ∧ c ≠ 0x3B ∧ c ≠ 0x2C ∧ c ≠ 0x5B ∧ c ≠ 0x5D ∧ c ≠ 0x2D ∧ c ≠ 0x22 ∧
      c ≠ 0x27 := by
  revert c
  decide

/-- A word octet between tokens begins a word. -/
theorem lexOctet_between_of_word {c : Byte} (h : isWordOctet c = true) (ts : List Token) :
    lexOctet (ts, .between) c = (ts, .inWord [c]) := by
  obtain ⟨h1, h2, h3, h4, h5, h6, h7, h8⟩ := isWordOctet_ne_separator h
  simp only [lexOctet, lexBetween]
  rw [if_neg h1, if_neg h2, if_neg h3, if_neg h4, if_neg h5, if_neg h6, if_neg h7, if_neg h8, if_pos h]

/-- Word octets inside a word lengthen it. -/
theorem foldl_lexOctet_inWord {w : List Byte} (h : ∀ c ∈ w, isWordOctet c = true) (ts : List Token)
    (cs : List Byte) : w.foldl lexOctet (ts, .inWord cs) = (ts, .inWord (w.reverse ++ cs)) := by
  induction w generalizing cs with
  | nil => rfl
  | cons c rest ih =>
    simp only [List.mem_cons, forall_eq_or_imp] at h
    simp [lexOctet, h.1, ih h.2]

/-- A row of word octets between tokens is one word, still open. -/
theorem foldl_lexOctet_word {w : List Byte} (hne : w ≠ []) (h : ∀ c ∈ w, isWordOctet c = true)
    (ts : List Token) : w.foldl lexOctet (ts, .between) = (ts, .inWord w.reverse) := by
  obtain ⟨c, rest, rfl⟩ := List.exists_cons_of_ne_nil hne
  simp only [List.mem_cons, forall_eq_or_imp] at h
  simp [lexOctet_between_of_word h.1, foldl_lexOctet_inWord h.2]

/-- Blanks between tokens leave no trace. -/
theorem foldl_lexOctet_blanks {w : List Byte} (h : ∀ c ∈ w, c = 0x20 ∨ c = 0x09) (ts : List Token) :
    w.foldl lexOctet (ts, .between) = (ts, .between) := by
  induction w with
  | nil => rfl
  | cons c rest ih =>
    simp only [List.mem_cons, forall_eq_or_imp] at h
    rcases h.1 with rfl | rfl <;> exact ih h.2

/-- A comment runs to the end of the line (R61). -/
theorem foldl_lexOctet_comment (w : List Byte) (ts : List Token) :
    w.foldl lexOctet (ts, .comment) = (ts, .comment) := by
  induction w with
  | nil => rfl
  | cons c rest ih => exact ih

/-- A comment, or nothing, after the tokens of a line adds none. -/
theorem tokens_of_foldl_between {line comment : List Byte} {ts : List Token}
    (hl : line.foldl lexOctet ([], .between) = (ts, .between))
    (hc : comment = [] ∨ comment.head? = some 0x3B) : tokens (line ++ comment) = some ts.reverse := by
  unfold tokens
  rw [List.foldl_append, hl]
  rcases hc with rfl | hc
  · rfl
  · cases comment with
    | nil => cases hc
    | cons c rest =>
      cases hc
      rw [List.foldl_cons, show lexOctet (ts, .between) (0x3B : Byte) = (ts, .comment) from rfl,
        foldl_lexOctet_comment]

/-- The same where the line ends in a word. -/
theorem tokens_of_foldl_inWord {line comment : List Byte} {ts : List Token} {cs : List Byte}
    (hl : line.foldl lexOctet ([], .between) = (ts, .inWord cs))
    (hc : comment = [] ∨ comment.head? = some 0x3B) :
    tokens (line ++ comment) = some (.word cs.reverse :: ts).reverse := by
  unfold tokens
  rw [List.foldl_append, hl]
  rcases hc with rfl | hc
  · rfl
  · cases comment with
    | nil => cases hc
    | cons c rest =>
      cases hc
      rw [List.foldl_cons,
        show lexOctet (ts, .inWord cs) (0x3B : Byte) = (.word cs.reverse :: ts, .comment) from rfl,
        foldl_lexOctet_comment]

/-- A line of one word, between blanks and before a comment, has that word as its one token. -/
theorem tokens_word_line {before w after comment : List Byte} (hne : w ≠ [])
    (hw : ∀ c ∈ w, isWordOctet c = true) (hb : ∀ c ∈ before ++ after, c = 0x20 ∨ c = 0x09)
    (hc : comment = [] ∨ comment.head? = some 0x3B) :
    tokens (before ++ w ++ after ++ comment) = some [.word w] := by
  have hbefore : ∀ c ∈ before, c = 0x20 ∨ c = 0x09 := fun c h => hb c (by simp [h])
  have hafter : ∀ c ∈ after, c = 0x20 ∨ c = 0x09 := fun c h => hb c (by simp [h])
  have hword : (before ++ w).foldl lexOctet ([], .between) = ([], .inWord w.reverse) := by
    rw [List.foldl_append, foldl_lexOctet_blanks hbefore, foldl_lexOctet_word hne hw]
  cases after with
  | nil => simpa using tokens_of_foldl_inWord hword hc
  | cons c rest =>
    have hsep : lexOctet ([], .inWord w.reverse) c = ([.word w], .between) := by
      rw [← List.reverse_reverse w, List.reverse_reverse w.reverse]
      rcases hafter c (by simp) with rfl | rfl <;> rfl
    have hrest : ∀ c ∈ rest, c = 0x20 ∨ c = 0x09 := fun c h => hafter c (by simp [h])
    have hline : (before ++ w ++ c :: rest).foldl lexOctet ([], .between) = ([.word w], .between) := by
      rw [List.foldl_append, hword, List.foldl_cons, hsep, foldl_lexOctet_blanks hrest]
    simpa using tokens_of_foldl_between hline hc

-- 2. Numbers

/-- A digit is a word octet. -/
theorem isWordOctet_of_digitValue {c : Byte} {d : Nat} (h : digitValue c = some d) :
    isWordOctet c = true := by
  have hall : ∀ c : Byte, digitValue c ≠ none → isWordOctet c = true := by decide
  exact hall c (by simp [h])

/-- What spells a number is a nonempty row of digits of its base (R62). -/
theorem digits_of_digitsValue {base n : Nat} {cs : List Byte} (h : digitsValue base cs = some n) :
    cs ≠ [] ∧ ∀ c ∈ cs, ∃ d, digitValue c = some d ∧ d < base := by
  unfold digitsValue at h
  split at h
  · cases h
  · rename_i hne
    refine ⟨hne, ?_⟩
    generalize (some 0 : Option Nat) = acc at h
    clear hne
    suffices hs : acc ≠ none ∧ ∀ c ∈ cs, ∃ d, digitValue c = some d ∧ d < base from hs.2
    induction cs generalizing acc with
    | nil => simp at h; simp [h]
    | cons c rest ih =>
      obtain ⟨h1, h2⟩ := ih _ h
      cases acc with
      | none => simp at h1
      | some m =>
        cases hd : digitValue c with
        | none => simp [hd] at h1
        | some d =>
          simp [hd] at h1
          exact ⟨by simp, by simpa using ⟨⟨d, hd, h1⟩, h2⟩⟩

/-- Literals of bytes are read as those bytes. -/
theorem byteLiterals_eq_ok {vs : List Literal} {bs : List Byte}
    (h : vs.Forall₂ (fun v b => UnsignedLiteral v b.toNat) bs) : byteLiterals vs = .ok bs := by
  induction h with
  | nil => rfl
  | @cons v b vs bs hv _ ih =>
    have hb : unsignedBits 8 v = .ok b := by
      have := b.isLt
      rcases hv with rfl | rfl <;> simp [unsignedBits, unsignedBelow, Except.map, this]
    simp [byteLiterals, hb, ih]

-- 3. Rows of element writes

/-- A sequence runs as its first input and then the rest, where the first reaches a state. -/
theorem runInputs_cons_of_next {x : PortInput} {s t : State} (h : perform x s = .next t)
    (xs : List PortInput) : runInputs (x :: xs) s = runInputs xs t := by
  simp [runInputs, h]

/-- The writes of a row of elements of `TXT` leave those elements, with their written bits, and nothing
else, before the inputs that follow (R63). -/
theorem runInputs_txtWrites (bs : List Byte) (tail : List PortInput) (is : List (Fin 26)) (s : State) :
    ∃ els bits,
      runInputs ((is.filterMap fun i => bs[i.val]?.map fun c => PortInput.write (.txt i c)) ++ tail) s =
        runInputs tail { s with txt := els, written := { s.written with txt := bits } } ∧
      ∀ i : Fin 26, els[i] = (if i ∈ is then bs.getD i.val s.txt[i] else s.txt[i]) ∧
        bits[i] = (s.written.txt[i] || decide (i ∈ is ∧ i.val < bs.length)) := by
  induction is generalizing s with
  | nil => exact ⟨s.txt, s.written.txt, rfl, by simp⟩
  | cons j is ih =>
    by_cases hj : j.val < bs.length
    · obtain ⟨els, bits, hrun, hels⟩ := ih (s.writeTxtAt j bs[j.val])
      refine ⟨els, bits, ?_, fun i => ?_⟩
      · simp only [List.filterMap_cons, List.getElem?_eq_getElem hj, Option.map_some, List.cons_append]
        rw [runInputs_cons_of_next (t := s.writeTxtAt j bs[j.val]) rfl]
        simpa using hrun
      · rw [(hels i).1, (hels i).2]
        by_cases hij : i = j
        · subst hij
          simp [State.writeTxtAt, hj]
        · have hne : j.val ≠ i.val := fun e => hij (Fin.ext e.symm)
          simp [State.writeTxtAt, hij, Vector.getElem_set_ne, hne]
    · obtain ⟨els, bits, hrun, hels⟩ := ih s
      have hnone : bs[j.val]? = none := List.getElem?_eq_none (Nat.not_lt.1 hj)
      refine ⟨els, bits, ?_, fun i => ?_⟩
      · simpa [List.filterMap_cons, hnone] using hrun
      · rw [(hels i).1, (hels i).2]
        by_cases hij : i = j
        · subst hij
          simp [hj]
        · simp [hij]

/-- The writes of a row of elements of `SLICE` leave those elements, with their written bits, and nothing
else, before the inputs that follow (R63). -/
theorem runInputs_sliceWrites (bs : List Byte) (tail : List PortInput) (is : List (Fin 16)) (s : State) :
    ∃ els bits,
      runInputs ((is.filterMap fun i => bs[i.val]?.map fun c => PortInput.write (.slice i c)) ++ tail) s =
        runInputs tail { s with slice := els, written := { s.written with slice := bits } } ∧
      ∀ i : Fin 16, els[i] = (if i ∈ is then bs.getD i.val s.slice[i] else s.slice[i]) ∧
        bits[i] = (s.written.slice[i] || decide (i ∈ is ∧ i.val < bs.length)) := by
  induction is generalizing s with
  | nil => exact ⟨s.slice, s.written.slice, rfl, by simp⟩
  | cons j is ih =>
    by_cases hj : j.val < bs.length
    · obtain ⟨els, bits, hrun, hels⟩ := ih (s.writeSliceAt j bs[j.val])
      refine ⟨els, bits, ?_, fun i => ?_⟩
      · simp only [List.filterMap_cons, List.getElem?_eq_getElem hj, Option.map_some, List.cons_append]
        rw [runInputs_cons_of_next (t := s.writeSliceAt j bs[j.val]) rfl]
        simpa using hrun
      · rw [(hels i).1, (hels i).2]
        by_cases hij : i = j
        · subst hij
          simp [State.writeSliceAt, hj]
        · have hne : j.val ≠ i.val := fun e => hij (Fin.ext e.symm)
          simp [State.writeSliceAt, hij, Vector.getElem_set_ne, hne]
    · obtain ⟨els, bits, hrun, hels⟩ := ih s
      have hnone : bs[j.val]? = none := List.getElem?_eq_none (Nat.not_lt.1 hj)
      refine ⟨els, bits, ?_, fun i => ?_⟩
      · simpa [List.filterMap_cons, hnone] using hrun
      · rw [(hels i).1, (hels i).2]
        by_cases hij : i = j
        · subst hij
          simp [hj]
        · simp [hij]

end Sys2Proof.Machine
end

