-- ==== Sys2Proof/Laws/Codec.lean ====
section
/-! SUPPORT. The small laws of the codec's tables, groups, chunks and scan. -/

namespace Sys2Proof.Machine

@[simp] theorem identifierBytes_length (v : Identifier) : (identifierBytes v).length = 16 := by
  simp [identifierBytes]

/-- Byte `k` of the list is byte `k` of the value. -/
theorem identifierBytes_getD (v : Identifier) {k : Nat} (h : k < 16) (d : Byte) :
    (identifierBytes v).getD k d = byteAt v k := by
  simp [identifierBytes, List.getD_eq_getElem?_getD, h]

@[simp] theorem windows_length (x0 x1 x2 x3 x4 : Byte) : (windows x0 x1 x2 x3 x4).length = 8 := rfl

/-- The first three groups give eight symbols, the last one two (R81). -/
theorem encodeSymbols_eq_groups (b : List Byte) :
    encodeSymbols b =
      windows (b.getD 0 0) (b.getD 1 0) (b.getD 2 0) (b.getD 3 0) (b.getD 4 0) ++
      windows (b.getD 5 0) (b.getD 6 0) (b.getD 7 0) (b.getD 8 0) (b.getD 9 0) ++
      windows (b.getD 10 0) (b.getD 11 0) (b.getD 12 0) (b.getD 13 0) (b.getD 14 0) ++
      (windows (b.getD 15 0) 0 0 0 0).take 2 := rfl

@[simp] theorem chunkBytes_length (v0 v1 v2 v3 v4 v5 v6 v7 : Symbol) :
    (chunkBytes v0 v1 v2 v3 v4 v5 v6 v7).length = 5 := rfl

@[simp] theorem decodeBytes_length (val : List Symbol) : (decodeBytes val).length = 20 := rfl

/-- Looking up a character of UPPER gives its symbol, with either value of `O_ALIAS`. -/
theorem lookup_upper (o : Bool) (v : Symbol) : lookup o (symbolChar upperAlphabet v) = some v := by
  revert o v; decide

/-- Looking up a character of LOWER gives its symbol, with either value of `O_ALIAS`. -/
theorem lookup_lower (o : Bool) (v : Symbol) : lookup o (symbolChar lowerAlphabet v) = some v := by
  revert o v; decide

/-- The scan succeeds exactly with the values of all the characters. -/
theorem scanFrom_eq_ok_iff {o : Bool} {cs : List Byte} {vs : List Symbol} {p : Nat} :
    scanFrom o p cs = .ok vs ↔ cs.map (lookup o) = vs.map some := by
  induction cs generalizing p vs with
  | nil => cases vs <;> simp [scanFrom]
  | cons c rest ih =>
    cases hc : lookup o c with
    | none => cases vs <;> simp [scanFrom, hc]
    | some v =>
      cases hr : scanFrom o (p + 1) rest with
      | error e =>
        cases vs with
        | nil => simp [scanFrom, hc, hr]
        | cons w ws =>
          have := mt (ih (p := p + 1) (vs := ws)).2 (by simp [hr])
          simp [scanFrom, hc, hr, this]
      | ok us =>
        have h := (ih (p := p + 1) (vs := us)).1 hr
        cases vs with
        | nil => simp [scanFrom, hc, hr]
        | cons w ws =>
          have hinj : us.map some = ws.map some ↔ us = ws :=
            (List.map_injective_iff.2 (Option.some_injective _)).eq_iff
          simp [scanFrom, hc, hr, h, hinj]

/-- The scan fails exactly at the first invalid character, with that character and its position. -/
theorem scanFrom_eq_error_iff {o : Bool} {cs : List Byte} {p q : Nat} {c : Byte} :
    scanFrom o p cs = .error (c, q) ↔
      ∃ k, q = p + k ∧ cs[k]? = some c ∧ lookup o c = none ∧
        ∀ j < k, ∀ d, cs[j]? = some d → lookup o d ≠ none := by
  induction cs generalizing p with
  | nil => simp [scanFrom]
  | cons a rest ih =>
    cases ha : lookup o a with
    | none =>
      simp only [scanFrom, ha, Except.error.injEq, Prod.mk.injEq]
      constructor
      · rintro ⟨rfl, rfl⟩
        exact ⟨0, by simp, by simp, ha, by simp⟩
      · rintro ⟨k, rfl, hk, hc, hj⟩
        cases k with
        | zero => simpa using hk
        | succ k => exact absurd ha (hj 0 (by omega) a (by simp))
    | some v =>
      have hstep : scanFrom o p (a :: rest) = .error (c, q) ↔
          scanFrom o (p + 1) rest = .error (c, q) := by
        cases hr : scanFrom o (p + 1) rest <;> simp [scanFrom, ha, hr]
      rw [hstep, ih]
      constructor
      · rintro ⟨k, rfl, hk, hc, hj⟩
        refine ⟨k + 1, by omega, by simpa using hk, hc, fun j hjk d hd => ?_⟩
        cases j with
        | zero => simp at hd; subst hd; simp [ha]
        | succ j => exact hj j (by omega) d (by simpa using hd)
      · rintro ⟨k, rfl, hk, hc, hj⟩
        cases k with
        | zero => simp at hk; subst hk; simp [hc] at ha
        | succ k =>
          exact ⟨k, by omega, by simpa using hk, hc, fun j hjk d hd =>
            hj (j + 1) (by omega) d (by simpa using hd)⟩

/-- Where every character is valid, the scan reads them all. -/
theorem scanLength_of_valid {o : Bool} {cs : List Byte} (h : ∀ c ∈ cs, lookup o c ≠ none) :
    scanLength o cs = cs.length := by
  induction cs with
  | nil => rfl
  | cons a rest ih =>
    cases ha : lookup o a with
    | none => exact absurd ha (h a (by simp))
    | some v => simp [scanLength, ha, ih fun c hc => h c (by simp [hc])]

/-- The scan reads up to and including the first invalid character. -/
theorem scanLength_of_first_invalid {o : Bool} {cs : List Byte} {k : Nat} {c : Byte}
    (hk : cs[k]? = some c) (hc : lookup o c = none)
    (hj : ∀ j < k, ∀ d, cs[j]? = some d → lookup o d ≠ none) : scanLength o cs = k + 1 := by
  induction cs generalizing k with
  | nil => simp at hk
  | cons a rest ih =>
    cases k with
    | zero => simp at hk; subst hk; simp [scanLength, hc]
    | succ k =>
      cases ha : lookup o a with
      | none => exact absurd ha (hj 0 (by omega) a (by simp))
      | some v =>
        have := ih (k := k) (by simpa using hk) fun j hjk d hd => hj (j + 1) (by omega) d (by simpa using hd)
        simp [scanLength, ha, this]

/-- Character `i` of an encoded text is the alphabet's character of symbol `i`. -/
theorem encodeText_getElem (alphabet : List Byte) (v : Identifier) (i : Fin 26) :
    (encodeText alphabet v)[i] = symbolChar alphabet ((encodeSymbols (identifierBytes v)).getD i.val 0) := by
  simp [encodeText]

/-- A byte of a value, bit by bit (R9). -/
theorem getLsbD_byteAt {width : Nat} (v : BitVec width) (k i : Nat) :
    (byteAt v k).getLsbD i = (decide (i < 8) && v.getLsbD (width - 8 * (k + 1) + i)) := by
  simp [byteAt]

/-- Bytes joined onto a value, bit by bit: the bytes are the low bits, the last byte the lowest. -/
theorem getLsbD_foldl_bytes (bs : List Byte) (acc : BitVec 128) {i : Nat} (hi : i < 128) :
    (bs.foldl (fun (acc : BitVec 128) b => (acc <<< 8) ||| b.setWidth 128) acc).getLsbD i =
      if i < 8 * bs.length then (bs.getD (bs.length - 1 - i / 8) 0).getLsbD (i % 8)
      else acc.getLsbD (i - 8 * bs.length) := by
  induction bs generalizing acc with
  | nil => simp
  | cons b bs ih =>
    rw [List.foldl_cons, ih]
    by_cases h : i < 8 * bs.length
    · have h2 : i < 8 * (bs.length + 1) := by omega
      simp only [h, if_true, List.length_cons, h2]
      congr 1
      rw [show bs.length + 1 - 1 - i / 8 = (bs.length - 1 - i / 8) + 1 by omega]
      rfl
    · simp only [h, if_false, List.length_cons]
      by_cases h2 : i < 8 * (bs.length + 1)
      · simp only [h2, if_true]
        rw [show bs.length + 1 - 1 - i / 8 = 0 by omega, show i % 8 = i - 8 * bs.length by omega]
        simp [show i - 8 * bs.length < 8 by omega, show i - 8 * bs.length < 128 by omega]
      · simp only [h2, if_false]
        simp [show ¬ (i - 8 * bs.length < 8) by omega, show i - 8 * bs.length < 128 by omega]
        rw [BitVec.getLsbD_of_ge b _ (by omega)]
        simp
        congr 1

/-- Sixteen bytes joined, bit by bit (R71, R89). -/
theorem getLsbD_joinBytes {bs : List Byte} (h : bs.length = 16) {i : Nat} (hi : i < 128) :
    (joinBytes bs).getLsbD i = (bs.getD (15 - i / 8) 0).getLsbD (i % 8) := by
  rw [joinBytes, getLsbD_foldl_bytes bs 0 hi, h, if_pos (by omega)]

end Sys2Proof.Machine
end

