-- ==== Sys2Proof/Laws/Meanings.lean ====
section
/-! SUPPORT. What the shared parts of the meanings leave in every field. -/

namespace Sys2Proof.Machine

@[simp] theorem State.encoded_params (s : State) (a : List Byte) : (s.encoded a).params = s.params := by
  simp [State.encoded]

@[simp] theorem State.encoded_id (s : State) (a : List Byte) : (s.encoded a).id = s.id := by
  simp [State.encoded]

@[simp] theorem State.encoded_ts (s : State) (a : List Byte) : (s.encoded a).ts = s.ts := by
  simp [State.encoded]

@[simp] theorem State.encoded_rnd (s : State) (a : List Byte) : (s.encoded a).rnd = s.rnd := by
  simp [State.encoded]

@[simp] theorem State.encoded_f1 (s : State) (a : List Byte) : (s.encoded a).f1 = s.f1 := by
  simp [State.encoded]

@[simp] theorem State.encoded_f2 (s : State) (a : List Byte) : (s.encoded a).f2 = s.f2 := by
  simp [State.encoded]

@[simp] theorem State.encoded_f3 (s : State) (a : List Byte) : (s.encoded a).f3 = s.f3 := by
  simp [State.encoded]

@[simp] theorem State.encoded_f4 (s : State) (a : List Byte) : (s.encoded a).f4 = s.f4 := by
  simp [State.encoded]

@[simp] theorem State.encoded_f5 (s : State) (a : List Byte) : (s.encoded a).f5 = s.f5 := by
  simp [State.encoded]

@[simp] theorem State.encoded_u (s : State) (a : List Byte) : (s.encoded a).u = s.u := by
  simp [State.encoded]

@[simp] theorem State.encoded_txt (s : State) (a : List Byte) : (s.encoded a).txt = encodeText a s.id := by
  simp [State.encoded]

@[simp] theorem State.encoded_txtLen (s : State) (a : List Byte) : (s.encoded a).txtLen = 26 := by
  simp [State.encoded, Config.txtChars]

@[simp] theorem State.encoded_slice (s : State) (a : List Byte) : (s.encoded a).slice = s.slice := by
  simp [State.encoded]

@[simp] theorem State.encoded_sliceLen (s : State) (a : List Byte) : (s.encoded a).sliceLen = s.sliceLen := by
  simp [State.encoded]

@[simp] theorem State.encoded_status (s : State) (a : List Byte) : (s.encoded a).status = CommandStatus.ok.word := by
  simp [State.encoded]

@[simp] theorem State.encoded_errFound (s : State) (a : List Byte) : (s.encoded a).errFound = 0 := by
  simp [State.encoded, CommandStatus.found]

@[simp] theorem State.encoded_written (s : State) (a : List Byte) : (s.encoded a).written = { s.written with txt := Vector.replicate 26 true, txtLen := true } := by
  simp [State.encoded]

@[simp] theorem State.encoded_port (s : State) (a : List Byte) : (s.encoded a).port = s.port := by
  simp [State.encoded]

@[simp] theorem State.encoded_reads (s : State) (a : List Byte) : (s.encoded a).reads = s.reads := by
  simp [State.encoded]

@[simp] theorem State.writeFields_params (s : State) (v : Identifier) : (s.writeFields v).params = s.params := by
  simp [State.writeFields]

@[simp] theorem State.writeFields_id (s : State) (v : Identifier) : (s.writeFields v).id = s.id := by
  simp [State.writeFields]

@[simp] theorem State.writeFields_ts (s : State) (v : Identifier) : (s.writeFields v).ts = s.ts := by
  simp [State.writeFields]

@[simp] theorem State.writeFields_rnd (s : State) (v : Identifier) : (s.writeFields v).rnd = s.rnd := by
  simp [State.writeFields]

@[simp] theorem State.writeFields_f1 (s : State) (v : Identifier) : (s.writeFields v).f1 = fieldF1 v := by
  simp [State.writeFields]

@[simp] theorem State.writeFields_f2 (s : State) (v : Identifier) : (s.writeFields v).f2 = fieldF2 v := by
  simp [State.writeFields]

@[simp] theorem State.writeFields_f3 (s : State) (v : Identifier) : (s.writeFields v).f3 = fieldF3 v := by
  simp [State.writeFields]

@[simp] theorem State.writeFields_f4 (s : State) (v : Identifier) : (s.writeFields v).f4 = fieldF4 v := by
  simp [State.writeFields]

@[simp] theorem State.writeFields_f5 (s : State) (v : Identifier) : (s.writeFields v).f5 = fieldF5 v := by
  simp [State.writeFields]

@[simp] theorem State.writeFields_u (s : State) (v : Identifier) : (s.writeFields v).u = s.u := by
  simp [State.writeFields]

@[simp] theorem State.writeFields_txt (s : State) (v : Identifier) : (s.writeFields v).txt = s.txt := by
  simp [State.writeFields]

@[simp] theorem State.writeFields_txtLen (s : State) (v : Identifier) : (s.writeFields v).txtLen = s.txtLen := by
  simp [State.writeFields]

@[simp] theorem State.writeFields_slice (s : State) (v : Identifier) : (s.writeFields v).slice = s.slice := by
  simp [State.writeFields]

@[simp] theorem State.writeFields_sliceLen (s : State) (v : Identifier) : (s.writeFields v).sliceLen = s.sliceLen := by
  simp [State.writeFields]

@[simp] theorem State.writeFields_status (s : State) (v : Identifier) : (s.writeFields v).status = s.status := by
  simp [State.writeFields]

@[simp] theorem State.writeFields_errFound (s : State) (v : Identifier) : (s.writeFields v).errFound = s.errFound := by
  simp [State.writeFields]

@[simp] theorem State.writeFields_written (s : State) (v : Identifier) : (s.writeFields v).written = { s.written with f1 := true, f2 := true, f3 := true, f4 := true, f5 := true } := by
  simp [State.writeFields]

@[simp] theorem State.writeFields_port (s : State) (v : Identifier) : (s.writeFields v).port = s.port := by
  simp [State.writeFields]

@[simp] theorem State.writeFields_reads (s : State) (v : Identifier) : (s.writeFields v).reads = s.reads := by
  simp [State.writeFields]

end Sys2Proof.Machine
end

