-- ==== Sys2Proof/Laws/Ops.lean ====
section
/-! SUPPORT. What the shared operations over the registers can do. -/

namespace Sys2Proof.Machine

/-- No register of the order is unwritten exactly when each of them is written. -/
theorem State.firstUnwritten_eq_none_iff {s : State} {order : List PortReg} :
    s.firstUnwritten order = none ↔ ∀ r ∈ order, s.isWritten r = true := by
  simp [State.firstUnwritten]

/-- The first unwritten register depends on the written bits of the order alone. -/
theorem State.firstUnwritten_congr {s t : State} {order : List PortReg}
    (h : ∀ r ∈ order, s.isWritten r = t.isWritten r) : s.firstUnwritten order = t.firstUnwritten order := by
  induction order with
  | nil => rfl
  | cons r rest ih =>
    have hr := h r (by simp)
    have hrest := ih fun r' hr' => h r' (by simp [hr'])
    simp only [State.firstUnwritten, List.find?_cons] at *
    rw [hr, hrest]

/-- Which registers count as written depends on the written bits alone. -/
theorem State.isWritten_congr {s t : State} (h : s.written = t.written) (r : PortReg) :
    s.isWritten r = t.isWritten r := by
  cases r <;> simp [State.isWritten, h]

/-- The status write leaves the value of every other register. -/
theorem State.read_setStatus {s : State} {k : CommandStatus} {r : PortReg} (h : r ≠ .status)
    (h' : r ≠ .errFound) : (s.setStatus k).read r = s.read r := by
  cases r <;> simp_all [State.read]

/-- The status write leaves every written bit. -/
@[simp] theorem State.isWritten_setStatus (s : State) (k : CommandStatus) (r : PortReg) :
    (s.setStatus k).isWritten r = s.isWritten r := by
  cases r <;> rfl

/-- `raise` is the status write and no other (R12). -/
@[simp] theorem State.raise_eq_setStatus (s : State) (k : CommandStatus) : s.raise k = s.setStatus k :=
  rfl

-- reading after writing: a register write leaves the value and the written bit of every other register

theorem State.read_writeId {s : State} (v : BitVec 128) {r : PortReg} (h : r ≠ .id) :
    (s.writeId v).read r = s.read r := by
  cases r <;> first | rfl | exact absurd rfl h

theorem State.isWritten_writeId {s : State} (v : BitVec 128) {r : PortReg} (h : r ≠ .id) :
    (s.writeId v).isWritten r = s.isWritten r := by
  cases r <;> first | rfl | exact absurd rfl h

theorem State.read_writeTs {s : State} (v : BitVec 64) {r : PortReg} (h : r ≠ .ts) :
    (s.writeTs v).read r = s.read r := by
  cases r <;> first | rfl | exact absurd rfl h

theorem State.isWritten_writeTs {s : State} (v : BitVec 64) {r : PortReg} (h : r ≠ .ts) :
    (s.writeTs v).isWritten r = s.isWritten r := by
  cases r <;> first | rfl | exact absurd rfl h

theorem State.read_writeRnd {s : State} (v : BitVec 80) {r : PortReg} (h : r ≠ .rnd) :
    (s.writeRnd v).read r = s.read r := by
  cases r <;> first | rfl | exact absurd rfl h

theorem State.isWritten_writeRnd {s : State} (v : BitVec 80) {r : PortReg} (h : r ≠ .rnd) :
    (s.writeRnd v).isWritten r = s.isWritten r := by
  cases r <;> first | rfl | exact absurd rfl h

theorem State.read_writeF1 {s : State} (v : BitVec 32) {r : PortReg} (h : r ≠ .f1) :
    (s.writeF1 v).read r = s.read r := by
  cases r <;> first | rfl | exact absurd rfl h

theorem State.isWritten_writeF1 {s : State} (v : BitVec 32) {r : PortReg} (h : r ≠ .f1) :
    (s.writeF1 v).isWritten r = s.isWritten r := by
  cases r <;> first | rfl | exact absurd rfl h

theorem State.read_writeF2 {s : State} (v : BitVec 16) {r : PortReg} (h : r ≠ .f2) :
    (s.writeF2 v).read r = s.read r := by
  cases r <;> first | rfl | exact absurd rfl h

theorem State.isWritten_writeF2 {s : State} (v : BitVec 16) {r : PortReg} (h : r ≠ .f2) :
    (s.writeF2 v).isWritten r = s.isWritten r := by
  cases r <;> first | rfl | exact absurd rfl h

theorem State.read_writeF3 {s : State} (v : BitVec 16) {r : PortReg} (h : r ≠ .f3) :
    (s.writeF3 v).read r = s.read r := by
  cases r <;> first | rfl | exact absurd rfl h

theorem State.isWritten_writeF3 {s : State} (v : BitVec 16) {r : PortReg} (h : r ≠ .f3) :
    (s.writeF3 v).isWritten r = s.isWritten r := by
  cases r <;> first | rfl | exact absurd rfl h

theorem State.read_writeF4 {s : State} (v : BitVec 32) {r : PortReg} (h : r ≠ .f4) :
    (s.writeF4 v).read r = s.read r := by
  cases r <;> first | rfl | exact absurd rfl h

theorem State.isWritten_writeF4 {s : State} (v : BitVec 32) {r : PortReg} (h : r ≠ .f4) :
    (s.writeF4 v).isWritten r = s.isWritten r := by
  cases r <;> first | rfl | exact absurd rfl h

theorem State.read_writeF5 {s : State} (v : BitVec 32) {r : PortReg} (h : r ≠ .f5) :
    (s.writeF5 v).read r = s.read r := by
  cases r <;> first | rfl | exact absurd rfl h

theorem State.isWritten_writeF5 {s : State} (v : BitVec 32) {r : PortReg} (h : r ≠ .f5) :
    (s.writeF5 v).isWritten r = s.isWritten r := by
  cases r <;> first | rfl | exact absurd rfl h

theorem State.read_writeU {s : State} (v : BitVec 128) {r : PortReg} (h : r ≠ .u) :
    (s.writeU v).read r = s.read r := by
  cases r <;> first | rfl | exact absurd rfl h

theorem State.isWritten_writeU {s : State} (v : BitVec 128) {r : PortReg} (h : r ≠ .u) :
    (s.writeU v).isWritten r = s.isWritten r := by
  cases r <;> first | rfl | exact absurd rfl h

theorem State.read_writeTxtLen {s : State} (n : Nat) {r : PortReg} (h : r ≠ .txtLen) :
    (s.writeTxtLen n).read r = s.read r := by
  cases r <;> first | rfl | exact absurd rfl h

theorem State.isWritten_writeTxtLen {s : State} (n : Nat) {r : PortReg} (h : r ≠ .txtLen) :
    (s.writeTxtLen n).isWritten r = s.isWritten r := by
  cases r <;> first | rfl | exact absurd rfl h

theorem State.read_writeSliceLen {s : State} (n : Nat) {r : PortReg} (h : r ≠ .sliceLen) :
    (s.writeSliceLen n).read r = s.read r := by
  cases r <;> first | rfl | exact absurd rfl h

theorem State.isWritten_writeSliceLen {s : State} (n : Nat) {r : PortReg} (h : r ≠ .sliceLen) :
    (s.writeSliceLen n).isWritten r = s.isWritten r := by
  cases r <;> first | rfl | exact absurd rfl h

theorem State.read_writeTxtAt {s : State} (i : Fin 26) (v : Byte) {r : PortReg} (h : r ≠ .txt i) :
    (s.writeTxtAt i v).read r = s.read r := by
  cases r with
  | txt j =>
    have hj : i.val ≠ j.val := fun e => h (by rw [Fin.ext e])
    simp [State.read, State.writeTxtAt, Vector.getElem_set_ne, hj]
  | _ => rfl

theorem State.isWritten_writeTxtAt {s : State} (i : Fin 26) (v : Byte) {r : PortReg} (h : r ≠ .txt i) :
    (s.writeTxtAt i v).isWritten r = s.isWritten r := by
  cases r with
  | txt j =>
    have hj : i.val ≠ j.val := fun e => h (by rw [Fin.ext e])
    simp [State.isWritten, State.writeTxtAt, Vector.getElem_set_ne, hj]
  | _ => rfl

theorem State.read_writeSliceAt {s : State} (i : Fin 16) (v : Byte) {r : PortReg} (h : r ≠ .slice i) :
    (s.writeSliceAt i v).read r = s.read r := by
  cases r with
  | slice j =>
    have hj : i.val ≠ j.val := fun e => h (by rw [Fin.ext e])
    simp [State.read, State.writeSliceAt, Vector.getElem_set_ne, hj]
  | _ => rfl

theorem State.isWritten_writeSliceAt {s : State} (i : Fin 16) (v : Byte) {r : PortReg} (h : r ≠ .slice i) :
    (s.writeSliceAt i v).isWritten r = s.isWritten r := by
  cases r with
  | slice j =>
    have hj : i.val ≠ j.val := fun e => h (by rw [Fin.ext e])
    simp [State.isWritten, State.writeSliceAt, Vector.getElem_set_ne, hj]
  | _ => rfl

theorem State.read_writeTxt {s : State} (v : Vector Byte 26) {r : PortReg} (h : ∀ i, r ≠ .txt i) :
    (s.writeTxt v).read r = s.read r := by
  cases r with
  | txt j => exact absurd rfl (h j)
  | _ => rfl

theorem State.isWritten_writeTxt {s : State} (v : Vector Byte 26) {r : PortReg} (h : ∀ i, r ≠ .txt i) :
    (s.writeTxt v).isWritten r = s.isWritten r := by
  cases r with
  | txt j => exact absurd rfl (h j)
  | _ => rfl

end Sys2Proof.Machine
end

