-- ==== Sys2Proof/Laws/Commands.lean ====
section
/-! SUPPORT. Everything a command can do, said once: the state it goes on to (`exec_eq_next`), and the ways
DEC and FROMSLICE end. -/

namespace Sys2Proof.Machine

/-- What a command leaves. -/
def State.after (i : Instr) (s : State) : State :=
  match i with
  | .encL => s.encoded lowerAlphabet
  | .encU => s.encoded upperAlphabet
  | .dec => s.decoded
  | .pack => (s.writeId (packTimestamp s.ts s.rnd)).setStatus .ok
  | .millis => (s.writeTs (timestampOf s.id)).setStatus .ok
  | .packF => (s.writeId (packFields s.f1 s.f2 s.f3 s.f4 s.f5)).setStatus .ok
  | .unpackF => (s.writeFields s.id).setStatus .ok
  | .fromInt => (s.writeId s.u).setStatus .ok
  | .toInt => (s.writeU s.id).setStatus .ok
  | .fromSlice => s.fromSlice

/-- Every command completes, in every state, and goes on to `State.after`. -/
theorem exec_eq_next (i : Instr) (s : State) : exec i s = .next (s.after i) := by
  cases i <;> rfl

/-- DEC ends in one of three ways (R85): the wrong length, the first invalid character, or the values of
26 valid ones. -/
theorem State.decoded_cases (s : State) :
    (s.txtLen ≠ 26 ∧ s.decoded = s.setStatus (.invalidLength s.txtLen)) ∨
    (s.txtLen = 26 ∧ ∃ p : Fin 26, lookup s.params.oAlias s.txt[p] = none ∧
      (∀ q : Fin 26, q < p → lookup s.params.oAlias s.txt[q] ≠ none) ∧
      s.decoded = s.setStatus (.invalidCharacter s.txt[p] (BitVec.ofNat 3 (p.val % 8)))) ∨
    (s.txtLen = 26 ∧ ∃ val : Vector Symbol 26, (∀ p : Fin 26, lookup s.params.oAlias s.txt[p] = some val[p]) ∧
      s.decoded = (s.writeId (decodeIdentifier val.toList)).setStatus .ok) := by
  by_cases hl : s.txtLen = 26
  · right
    have hdec : s.decoded = match scanFrom s.params.oAlias 0 s.txt.toList with
        | .error (c, p) => s.raise (.invalidCharacter c (BitVec.ofNat 3 (p % Config.groupSymbols)))
        | .ok val => (s.writeId (decodeIdentifier val)).setStatus .ok := by
      exact if_neg (not_not.2 hl)
    cases hs : scanFrom s.params.oAlias 0 s.txt.toList with
    | error e =>
      obtain ⟨c, p⟩ := e
      obtain ⟨k, rfl, hk, hc, hj⟩ := scanFrom_eq_error_iff.1 hs
      have hk26 : k < 26 := by
        by_contra h
        rw [List.getElem?_eq_none (by simp; omega)] at hk
        simp at hk
      have hget : s.txt[k] = c := by
        rw [List.getElem?_eq_getElem (by simpa using hk26)] at hk
        simpa using hk
      left
      refine ⟨hl, ⟨k, hk26⟩, ?_, ?_, ?_⟩
      · simpa [hget] using hc
      · intro q hq
        exact hj q.val hq _ (by rw [List.getElem?_eq_getElem (by simp)]; simp)
      · rw [hdec, hs]
        simp [hget, Config.groupSymbols]
    | ok vs =>
      have hmap := scanFrom_eq_ok_iff.1 hs
      have hlen : vs.length = 26 := by simpa using (congrArg List.length hmap).symm
      right
      refine ⟨hl, ⟨vs.toArray, by simpa using hlen⟩, ?_, ?_⟩
      · intro p
        have hp : p.val < vs.length := by omega
        have h := congrArg (·[p.val]?) hmap
        simp [hp] at h
        simpa using h
      · rw [hdec, hs]
        simp
  · left
    exact ⟨hl, by simp [State.decoded, Config.txtChars, hl]⟩

/-- FROMSLICE ends in one of two ways (R71). -/
theorem State.fromSlice_cases (s : State) :
    (s.sliceLen ≠ 16 ∧ s.fromSlice = s.setStatus (.bytesError s.sliceLen)) ∨
    (s.sliceLen = 16 ∧ s.fromSlice = (s.writeId (joinBytes s.slice.toList)).setStatus .ok) := by
  by_cases h : s.sliceLen = 16 <;> simp [State.fromSlice, Config.sliceExpected, h]

/-- The encoders change nothing but `TXT`, `TXT_LEN`, `STATUS` and `ERR_FOUND` among the values. -/
theorem State.read_encoded {s : State} (a : List Byte) {r : PortReg} (h : ∀ i, r ≠ .txt i)
    (hl : r ≠ .txtLen) (h1 : r ≠ .status) (h2 : r ≠ .errFound) : (s.encoded a).read r = s.read r := by
  rw [State.encoded, State.read_setStatus h1 h2, State.read_writeTxtLen _ hl, State.read_writeTxt _ h]

/-- The encoders set the written bits of `TXT` and `TXT_LEN` and change no other. -/
theorem State.isWritten_encoded {s : State} (a : List Byte) {r : PortReg} (h : ∀ i, r ≠ .txt i)
    (hl : r ≠ .txtLen) : (s.encoded a).isWritten r = s.isWritten r := by
  rw [State.encoded, State.isWritten_setStatus, State.isWritten_writeTxtLen _ hl,
    State.isWritten_writeTxt _ h]

end Sys2Proof.Machine
end

