-- ==== Sys2Proof/Laws/Flags.lean ====
section
/-! SUPPORT. The fields of a status word that was laid out from fields (10_state.md R25). -/

namespace Sys2Proof.Machine

/-- A status word bit by bit. -/
theorem getLsbD_statusWord (kind index : BitVec 3) (char expected : BitVec 8) (n : Nat) :
    (statusWord kind index char expected).getLsbD n =
      if n < 3 then kind.getLsbD n
      else if n < 6 then index.getLsbD (n - 3)
      else if n < 8 then false
      else if n < 16 then char.getLsbD (n - 8)
      else if n < 24 then expected.getLsbD (n - 16) else false := by
  change BitVec.getLsbD (w := 8 + 8 + 8 + 2 + 3 + 3) (0#8 ++ expected ++ char ++ 0#2 ++ index ++ kind) n = _
  simp only [BitVec.getLsbD_append, BitVec.getLsbD_zero]
  by_cases h0 : n < 3
  · simp [h0]
  by_cases h1 : n < 6
  · simp [h0, h1, show n - 3 < 3 by omega]
  by_cases h2 : n < 8
  · simp [h0, h1, h2, show ¬(n - 3 < 3) by omega, show n - 3 - 3 < 2 by omega]
  by_cases h3 : n < 16
  · simp [h0, h1, h2, h3, show ¬(n - 3 < 3) by omega, show ¬(n - 3 - 3 < 2) by omega,
      show n - 3 - 3 - 2 = n - 8 by omega, show n - 8 < 8 by omega]
  by_cases h4 : n < 24
  · simp [h0, h1, h2, h3, h4, show ¬(n - 3 < 3) by omega, show ¬(n - 3 - 3 < 2) by omega,
      show ¬(n - 3 - 3 - 2 < 8) by omega, show n - 3 - 3 - 2 - 8 = n - 16 by omega]
    omega
  · simp [h0, h1, h2, h3, h4, show ¬(n - 3 < 3) by omega, show ¬(n - 3 - 3 < 2) by omega,
      show ¬(n - 3 - 3 - 2 < 8) by omega, show ¬(n - 3 - 3 - 2 - 8 < 8) by omega]

section Fields
variable (kind index : BitVec 3) (char expected : BitVec 8)

@[simp] theorem kindOf_statusWord : kindOf (statusWord kind index char expected) = kind := by
  apply BitVec.eq_of_getLsbD_eq
  intro i hi
  simp [kindOf, getLsbD_statusWord, hi]

@[simp] theorem indexOf_statusWord : indexOf (statusWord kind index char expected) = index := by
  apply BitVec.eq_of_getLsbD_eq
  intro i hi
  simp [indexOf, getLsbD_statusWord, hi, show 3 + i < 6 by omega]

@[simp] theorem reservedLow_statusWord : reservedLow (statusWord kind index char expected) = 0 := by
  apply BitVec.eq_of_getLsbD_eq
  intro i hi
  simp [reservedLow, getLsbD_statusWord, show ¬(6 + i < 3) by omega, show 6 + i < 8 by omega]

@[simp] theorem charOf_statusWord : charOf (statusWord kind index char expected) = char := by
  apply BitVec.eq_of_getLsbD_eq
  intro i hi
  simp [charOf, getLsbD_statusWord, hi, show ¬(8 + i < 3) by omega, show ¬(8 + i < 6) by omega,
    show 8 + i < 16 by omega]

@[simp] theorem expectedOf_statusWord : expectedOf (statusWord kind index char expected) = expected := by
  apply BitVec.eq_of_getLsbD_eq
  intro i hi
  simp [expectedOf, getLsbD_statusWord, hi, show ¬(16 + i < 3) by omega, show ¬(16 + i < 6) by omega,
    show ¬(16 + i < 8) by omega, show 16 + i < 24 by omega]

@[simp] theorem reservedHigh_statusWord : reservedHigh (statusWord kind index char expected) = 0 := by
  apply BitVec.eq_of_getLsbD_eq
  intro i hi
  simp [reservedHigh, getLsbD_statusWord, show ¬(24 + i < 3) by omega, show ¬(24 + i < 6) by omega,
    show ¬(24 + i < 8) by omega, show ¬(24 + i < 16) by omega]

end Fields

end Sys2Proof.Machine
end

