-- ==== Sys2Proof/Laws/Invariant.lean ====
section
/-! SUPPORT. What keeps the register invariant: writing the outcome of a command. -/

namespace Sys2Proof.Machine

/-- Recording a possible outcome keeps the invariant (R28). -/
theorem inv_setStatus {s : State} (h : Inv s) {k : CommandStatus} (hk : k.Possible s.params) :
    Inv (s.setStatus k) :=
  ⟨h.params, h.txtLen, h.sliceLen, k, hk, rfl, rfl⟩

end Sys2Proof.Machine
end

