-- ==== Sys2Proof/Laws/PerInstr.lean ====
section
/-! SUPPORT. Laws of every command as syntax: the fields of its word (R53, R54). -/

namespace Sys2Proof.Laws.WordFields

/-- The command's word has `RSV` 0, an `OP` in 1..9, and `CASE` 0 unless its `OP` is the encoder's. -/
def Statement (i : Instr) : Prop :=
  rsvField (encode i) = 0 ∧ 1 ≤ (opField (encode i)).toNat ∧ (opField (encode i)).toNat ≤ 9 ∧
    (caseField (encode i) = 0 ∨ opField (encode i) = 1)

theorem encL : Statement .encL := by unfold Statement; decide

theorem encU : Statement .encU := by unfold Statement; decide

theorem dec : Statement .dec := by unfold Statement; decide

theorem pack : Statement .pack := by unfold Statement; decide

theorem millis : Statement .millis := by unfold Statement; decide

theorem packF : Statement .packF := by unfold Statement; decide

theorem unpackF : Statement .unpackF := by unfold Statement; decide

theorem fromInt : Statement .fromInt := by unfold Statement; decide

theorem toInt : Statement .toInt := by unfold Statement; decide

theorem fromSlice : Statement .fromSlice := by unfold Statement; decide

end Sys2Proof.Laws.WordFields
end

