-- ==== Sys2Proof/Laws/SpecModel.lean ====
section
/-! SUPPORT. What an input can come to in the spec's model, said once. -/

namespace Sys2Proof.Machine

/-- It goes on exactly where every register read is written, and then to the block's own next state. -/
theorem modelPerform_eq_next_iff {x : PortInput} {s t : State} :
    modelPerform x s = .next t ↔ s.firstUnwritten (registersRead x s) = none ∧ perform x s = .next t := by
  unfold modelPerform
  cases s.firstUnwritten (registersRead x s) with
  | some r => simp
  | none => rcases perform x s with t' | f | r <;> first | exact nomatch f | simp

/-- It faults exactly at the first unwritten register read (R35). -/
theorem modelPerform_eq_modelFault_iff {x : PortInput} {s : State} {r : PortReg} :
    modelPerform x s = .modelFault r ↔ s.firstUnwritten (registersRead x s) = some r := by
  unfold modelPerform
  cases s.firstUnwritten (registersRead x s) with
  | some r => simp
  | none => rcases perform x s with t' | f | r <;> first | exact nomatch f | simp

/-- A command's word reads the command's operands. -/
@[simp] theorem registersRead_issue_encode (i : Instr) (s : State) :
    registersRead (.issue (encode i)) s = operands i s := by
  cases i <;> rfl

/-- Issuing a command's word performs the command. -/
@[simp] theorem perform_issue_encode (i : Instr) (s : State) : perform (.issue (encode i)) s = exec i s := by
  cases i <;> rfl

end Sys2Proof.Machine
end

