-- ==== Sys2Proof/Tests/Slice0.lean ====
section
/-! SUPPORT. Small tests of one step each, with results from spec/95_test_vectors.md or worked out by hand
from the rules, and a witness for the hypotheses of every statement that has some. -/

namespace Sys2Proof.Tests

open Sys2Proof.Machine

/-- The next state of an outcome, where it is one. -/
def nextOf (o : Host.Outcome State Fault Refusal) : Option State :=
  match o with
  | .next s => some s
  | .fault _ => none
  | .refused _ => none

/-- The refusal of an outcome, where it is one. -/
def refusalOf (o : Host.Outcome State Fault Refusal) : Option Refusal :=
  match o with
  | .next _ => none
  | .fault _ => none
  | .refused r => some r

/-- The spec's default parameters. -/
def params : Config.Params := Config.Params.default

/-- The command a word decodes to, where there is one. -/
def decoded (w : BitVec 8) : Option Instr :=
  match decode w with
  | .ok i => some i
  | .error _ => none

/-- The 26 octets of a text. -/
def textOf (s : String) : Vector Byte 26 := Vector.ofFn fun i => (ascii s).getD i.val 0

/-- The Identifier of the source's fixed vector (T1). -/
def fixedId : Identifier := 0x0167f5d69a0c6bc8e4c2663aec52f757

/-- A machine with every register written: the fixed vector (T1) and its views. -/
def filled : State :=
  let s := ((((State.resetWith params).writeId fixedId).writeTs 0x167f5d69a0c).writeRnd
    0x6bc8e4c2663aec52f757).writeU fixedId
  let s := ((((s.writeF1 23590358).writeF2 39436).writeF3 27592).writeF4 3837945402).writeF5 3964860247
  let s := (s.writeTxt (textOf "05kzbnmt1hnwhs62crxermqqaw")).writeTxtLen 26
  let s := (List.finRange 16).foldl (fun t i => t.writeSliceAt i (BitVec.ofNat 8 (i.val + 1))) s
  s.writeSliceLen 16

/-- `filled` with another text. -/
def withText (s : String) : State := filled.writeTxt (textOf s)

-- 1. The encodings of R56, bit by bit (bits 7:5 RSV, bit 4 CASE, bits 3:0 OP).

theorem test_decode_encL : decoded 0b00000001 = some .encL := by decide
theorem test_decode_encU : decoded 0b00010001 = some .encU := by decide
theorem test_decode_dec : decoded 0b00000010 = some .dec := by decide
theorem test_decode_pack : decoded 0b00000011 = some .pack := by decide
theorem test_decode_millis : decoded 0b00000100 = some .millis := by decide
theorem test_decode_packF : decoded 0b00000101 = some .packF := by decide
theorem test_decode_unpackF : decoded 0b00000110 = some .unpackF := by decide
theorem test_decode_fromInt : decoded 0b00000111 = some .fromInt := by decide
theorem test_decode_toInt : decoded 0b00001000 = some .toInt := by decide
theorem test_decode_fromSlice : decoded 0b00001001 = some .fromSlice := by decide

/-- The reserved words of V7. -/
theorem test_decode_reserved :
    [0x00#8, 0x10#8, 0x0A#8, 0x0F#8, 0x12#8, 0x19#8, 0x21#8, 0x81#8, 0xE1#8, 0xFF#8].map decoded =
      List.replicate 10 none := by decide

theorem test_decodeTableWord : decodeTableWord 8 0x11 = some .encU ∧ decodeTableWord 8 0x12 = none := by
  decide

-- 2. Well-formedness: a term each check refuses, and the boundary it accepts.

theorem test_wellFormed_instr : Instr.encL.wellFormed = true := by decide

theorem test_wellFormed_params :
    ({ params with lenWidth := 7 } : Config.Params).wellFormed = false ∧
      ({ params with lenWidth := 8 } : Config.Params).wellFormed = true := by decide

theorem test_wellFormed_input :
    (PortInput.write (.txtLen (2 ^ 32))).wellFormed params = false ∧
      (PortInput.write (.txtLen (2 ^ 32 - 1))).wellFormed params = true ∧
      (PortInput.write (.errFound (2 ^ 32))).wellFormed params = false ∧
      (PortInput.write (.sliceLen (2 ^ 32))).wellFormed params = false := by decide

-- 3. Each command (95_test_vectors.md T1 to T4, V1 to V6).

theorem test_encL : (nextOf (exec .encL filled)).map (·.txt) = some (textOf "05kzbnmt1hnwhs62crxermqqaw") := by
  decide

/-- V1: the last symbol has its two pad bits 0. -/
theorem test_encL_ones : (nextOf (exec .encL (filled.writeId (BitVec.allOnes 128)))).map (·.txt) =
    some (textOf "zzzzzzzzzzzzzzzzzzzzzzzzzw") := by decide

theorem test_encU : (nextOf (exec .encU (filled.writeId 0xfedcba9876543210fedcba9876543210))).map (·.txt) =
    some (textOf "ZVEBN63PAGS11ZPWQAC7CN1J20") := by decide

/-- V1: `TXT_LEN` is overwritten whatever it held. -/
theorem test_encU_length : (nextOf (exec .encU (filled.writeTxtLen 25))).map (·.txtLen) = some 26 := by decide

theorem test_dec : (nextOf (exec .dec (withText "05KZBNMTIHNWHS62CRXERMQQAZ"))).map (·.id) = some fixedId := by
  decide

/-- V2: position 20, `u`: `INDEX` 4, `CHAR` unfolded. -/
theorem test_dec_invalid : (nextOf (exec .dec (withText "05kzbnmt1hnwhs62crxeumqqaw"))).map (·.status) =
    some 0x00007522 := by decide

theorem test_pack : (nextOf (exec .pack filled)).map (·.id) = some fixedId := by decide

/-- V3: 2^48 + 5 is truncated, not rejected. -/
theorem test_pack_truncates : (nextOf (exec .pack ((filled.writeTs 0x1000000000005).writeRnd 0))).map (·.id) =
    some 0x00000000000500000000000000000000 := by decide

theorem test_millis : (nextOf (exec .millis filled)).map (·.ts) = some 1546017741324 := by decide

theorem test_millis_negative : (nextOf (exec .millis (filled.writeId 0x80000000000000000000000000000000))).map (·.ts) =
    some 0xFFFF800000000000 := by decide

theorem test_packF : (nextOf (exec .packF filled)).map (·.id) = some fixedId := by decide

theorem test_packF_third : (nextOf (exec .packF
    (((((filled.writeF1 0).writeF2 0).writeF3 1).writeF4 0).writeF5 0))).map (·.id) =
    some 0x00000000000000010000000000000000 := by decide

theorem test_unpackF : (nextOf (exec .unpackF (filled.writeF3 0))).map
    (fun t => (t.f1, t.f2, t.f3, t.f4, t.f5)) =
    some (23590358, 39436, 27592, 3837945402, 3964860247) := by decide

theorem test_fromInt : (nextOf (exec .fromInt (filled.writeU 0x0123456789abcdef0123456789abcdef))).map
    (fun t => identifierBytes t.id) =
    some [0x01, 0x23, 0x45, 0x67, 0x89, 0xab, 0xcd, 0xef, 0x01, 0x23, 0x45, 0x67, 0x89, 0xab, 0xcd, 0xef] := by
  decide

theorem test_toInt : (nextOf (exec .toInt (filled.writeU 0))).map (·.u.toNat) =
    some 1869020765069383451833408194209838935 := by decide

theorem test_fromSlice : (nextOf (exec .fromSlice filled)).map (·.id) =
    some 0x0102030405060708090a0b0c0d0e0f10 := by decide

theorem test_fromSlice_short : (nextOf (exec .fromSlice (filled.writeSliceLen 4))).map
    (fun t => (t.status, t.errFound, t.id)) = some (0x00100003, 4, fixedId) := by decide

-- 4. The host port, reset and the parameters (V2, V7, V8, P7).

theorem test_illegal : (nextOf (perform (.issue 0x12) State.reset)).map (fun t => (t.status, t.errFound)) =
    some (4, 18) := by decide

theorem test_write_status_ignored : (nextOf (perform (.write (.status 0x1234)) filled)).map (·.status) =
    some 0 := by decide

theorem test_read_reset : (nextOf (perform (.read .status) (State.resetWith params))).map (·.reads) =
    some [.status 0] := by decide

/-- V2, V3 and P7: the model faults of DEC and PACK. -/
theorem test_unwritten_dec : modelPerform (.issue 0x02) State.reset = .modelFault .txtLen := by decide

theorem test_unwritten_pack : modelPerform (.issue 0x03) (State.reset.writeTs 5) = .modelFault .rnd := by decide

/-- V8: a run with a final state, and the values its reads returned. -/
theorem test_runsTo : RunsTo params [.read .status, .read .errFound]
    { State.reset with reads := [.status 0, .errFound 0] } := rfl

/-- V6: with `SLICE_LEN` 16 and one element unwritten. -/
theorem test_unwritten_fromSlice : modelPerform (.issue 0x09)
    { filled with written := { filled.written with slice := filled.written.slice.set 7 false } } =
      .modelFault (.slice 7) := by decide

/-- V2: without `O_ALIAS`, `o` at position 25 is invalid. -/
theorem test_no_o_alias : (nextOf (exec .dec
    { withText "05kzbnmt1hnwhs62crxermqqao" with params := { params with oAlias := false } })).map (·.status) =
    some 0x00006F0A := by decide

/-- A command runs as the first step after reset (log entries 2 and 5). -/
theorem test_first_step : [0x01, 0x11, 0x02, 0x03, 0x04, 0x05, 0x06, 0x07, 0x08, 0x09].map
    (fun w => (nextOf (step (State.reset.withFetchWord 8 w))).map (·.status.toNat)) =
    [some 0, some 0, some 1, some 0, some 0, some 0, some 0, some 0, some 0, some 0x00100003] := by decide

theorem test_wrstr : assembleLine params (ascii "WRSTR \"k\" ; one octet") =
    .ok [.write (.txt 0 0x6B), .write (.txtLen 1)] := by rfl

theorem test_wrbytes : assembleLine params (ascii "WRBYTES RND, [0,0,0,0,0,0,0,0,0,1]") =
    .ok [.write (.rnd 1)] := by rfl

-- 5. Witnesses: for every statement with hypotheses, a state and operands that meet them.

theorem witness_prepared : [Instr.encL, .encU, .dec, .pack, .millis, .packF, .unpackF, .fromInt, .toInt,
    .fromSlice].all (fun i => decide (Prepared i filled)) = true ∧
    Prepared .dec (filled.writeTxtLen 25) ∧ Prepared .fromSlice (filled.writeSliceLen 15) := by decide

/-- Every command answers a next state somewhere: the frame, dependence and outcome statements. -/
theorem witness_completes : [Instr.encL, .encU, .dec, .pack, .millis, .packF, .unpackF, .fromInt, .toInt,
    .fromSlice].all (fun i => (nextOf (exec i filled)).isSome) = true := by decide

theorem witness_decodeOfEncode : Instr.fromSlice.wellFormed = true ∧ decoded 0x09 = some .fromSlice := by
  decide

theorem witness_reservedWord :
    0x12#8 ∉ [0x01#8, 0x11#8, 0x02#8, 0x03#8, 0x04#8, 0x05#8, 0x06#8, 0x07#8, 0x08#8, 0x09#8] ∧
    0x00#8 ∉ [0x01#8, 0x11#8, 0x02#8, 0x03#8, 0x04#8, 0x05#8, 0x06#8, 0x07#8, 0x08#8, 0x09#8] := by decide

theorem witness_stepRuns : ∃ (s : State) (rest : List PortInput),
    s.port = .issue 0x03 :: rest ∧ decode 0x03 = .ok .pack ∧ Instr.pack.wellFormed = true ∧
      decodeTableWord 8 3 = some .pack :=
  ⟨filled.withFetchWord 8 3, [], by decide, rfl, rfl, by decide⟩

theorem witness_nextInput : State.reset.port = [] ∧
    { filled with port := [.reset] }.port = PortInput.reset :: [] := by decide

theorem witness_run : (nextOf (runInputs [.issue 0x03] filled)).isSome = true ∧
    modelRun [.issue 0x03] filled ≠ .modelFault .ts ∧
    modelRun [.write (.ts 5), .issue 0x03, .issue 0x04] State.reset = .modelFault .rnd ∧
    (nextOf (runInputs [.write (.ts 5), .issue 0x03, .issue 0x04] State.reset)).isSome = true ∧
    refusalOf (runInputs [.write (.txtLen (2 ^ 32))] filled) = some (.valueTooWide .txtLen) := by decide

theorem witness_hostWrite :
    (PortValue.txtLen (2 ^ 32 - 1)).fits params = true ∧ (PortValue.txtLen (2 ^ 32 - 1)).reg ≠ .status ∧
      (PortValue.txtLen (2 ^ 32 - 1)).reg ≠ .errFound ∧ (PortValue.status 7).fits params = true ∧
      (PortValue.status 7).reg = .status ∧ (PortValue.errFound 0).reg = .errFound ∧
      (PortValue.txtLen (2 ^ 32)).fits params = false := by decide

theorem witness_hostRead : filled.isWritten (.txt 25) = true ∧
    (State.resetWith params).isWritten (.txt 25) = false := by decide

theorem witness_inv_params : ({ params with lenWidth := 8 } : Config.Params).wellFormed = true := by decide

/-- One state per outcome code, each of which meets the invariant. -/
theorem witness_inv_outcomes :
    Inv filled ∧ Inv (filled.setStatus (.invalidLength 25)) ∧
    Inv (filled.setStatus (.invalidCharacter 0x75 4)) ∧ Inv (filled.setStatus (.bytesError 17)) ∧
    Inv (filled.setStatus (.illegalCommand 0xFF)) := by
  have h : Inv filled := ⟨by decide, by decide, by decide, .ok, trivial, by decide, by decide⟩
  exact ⟨h, inv_setStatus h (by decide : (25 ≠ 26 ∧ 25 < 2 ^ 32)),
    inv_setStatus h (by decide : lookup true 0x75 = none),
    inv_setStatus h (by decide : (17 ≠ 16 ∧ 17 < 2 ^ 32)),
    inv_setStatus h (k := .illegalCommand 0xFF) fun i => by cases i <;> decide⟩

/-- The step that keeps the invariant: a state that meets it and answers a next state. -/
theorem witness_step : Inv { filled with port := [.issue 0x09] } ∧
    (nextOf (step { filled with port := [.issue 0x09] })).isSome = true :=
  ⟨⟨by decide, by decide, by decide, .ok, trivial, by decide, by decide⟩, by decide⟩

/-- Two states that agree on the operands of PACK and differ elsewhere. -/
theorem witness_depends : filled.params = (filled.writeId 0).params ∧
    (∀ r ∈ operands .pack filled, filled.read r = (filled.writeId 0).read r) ∧
    (nextOf (exec .pack (filled.writeId 0))).isSome = true := by decide

theorem witness_overwrites : (nextOf (perform (.issue 0x09) filled)).isSome = true ∧
    (nextOf (perform (.issue 0xFF) filled)).isSome = true := by decide

/-- A failed command: the outcome codes 1, 2 and 3. -/
theorem witness_failed :
    (nextOf (exec .dec (filled.writeTxtLen 27))).map (fun t => kindOf t.status) = some 1 ∧
    (nextOf (exec .dec (withText "05kzbnmt1hnwhs62crxermqqa="))).map (fun t => kindOf t.status) = some 2 ∧
    (nextOf (exec .fromSlice (filled.writeSliceLen 17))).map (fun t => kindOf t.status) = some 3 := by decide

theorem witness_lengths : filled.sliceLen = 16 ∧ (filled.writeSliceLen 15).sliceLen ≠ 16 ∧
    filled.txtLen = 26 ∧ (filled.writeTxtLen 25).txtLen ≠ 26 := by decide

/-- A first invalid character at either end of the text. -/
theorem witness_firstInvalid : FirstInvalid (withText "/5kzbnmt1hnwhs62crxermqqaw") 0 ∧
    FirstInvalid (withText "05kzbnmt1hnwhs62crxermqqa=") 25 ∧
    Prepared .dec (withText "/5kzbnmt1hnwhs62crxermqqaw") ∧
    Prepared .dec (withText "05kzbnmt1hnwhs62crxermqqa=") := by
  unfold FirstInvalid
  decide

/-- A valid text and its values: 0 to 25 in order, then any valid last character with the same top three
bits. -/
theorem witness_textValues :
    TextValues (withText "0123456789ABCDEFGHJKMNPQRS") (Vector.ofFn fun i => BitVec.ofNat 5 i.val) ∧
    Prepared .dec (withText "0123456789ABCDEFGHJKMNPQRS") ∧
    lookup params.oAlias 0x76 = some 27 ∧
    lookup params.oAlias 0x72 = some 24 ∧ (24#5 : Symbol) >>> 2 = 25 >>> 2 ∧
    ∀ p : Fin 26, lookup params.oAlias (withText "0123456789ABCDEFGHJKMNPQRS").txt[p] ≠ none := by
  unfold TextValues
  decide

theorem witness_firstUnwritten :
    ((State.resetWith params).writeTs 5).firstUnwritten (operands .pack ((State.resetWith params).writeTs 5)) =
      some .rnd := by decide

/-- The four clauses on unwritten characters: the first at position 0, an unwritten last one. -/
theorem witness_decReads :
    (State.resetWith params).written.txtLen = false ∧
    ((State.resetWith params).writeTxtLen 25).written.txtLen = true ∧
    ((State.resetWith params).writeTxtLen 26).written.txt[(0 : Fin 26)] = false ∧
    (let s := (((State.resetWith params).writeTxtLen 26).writeTxtAt 0 0x55)
     s.written.txt[(1 : Fin 26)] = false ∧ lookup params.oAlias s.txt[(0 : Fin 26)] = none ∧
       s.written.txt[(0 : Fin 26)] = true) ∧
    (let s := { filled with written := { filled.written with txt := filled.written.txt.set 25 false } }
     s.written.txt[(25 : Fin 26)] = false ∧
       ∀ q : Fin 26, q < 25 → s.written.txt[q] = true ∧ lookup s.params.oAlias s.txt[q] ≠ none) := by decide

/-- Two states that differ in an unwritten register. -/
theorem witness_sameWhereWritten :
    SameWhereWritten (State.resetWith params) { State.resetWith params with id := fixedId } ∧
    (State.resetWith params).id ≠ fixedId := by
  refine ⟨⟨rfl, rfl, rfl, rfl, fun r => ?_⟩, by decide⟩
  cases r with
  | id => intro h; exact absurd h (by decide)
  | _ => intro _; rfl

/-- The corner values of PACK and MILLIS (R65, R66). -/
theorem witness_timestamps :
    (filled.writeTs (BitVec.ofInt 64 (-1))).ts = BitVec.ofInt 64 (-1) ∧
    Prepared .pack (filled.writeTs (BitVec.ofInt 64 (-2 ^ 63))) ∧
    (filled.writeId 0x80000000000000000000000000000000).id.extractLsb' 80 48 = 0x800000000000#48 ∧
    (filled.writeId 0x80000000000000000000000000000000).id.extractLsb' 127 1 = 1 ∧
    (filled.writeId (BitVec.allOnes 128)).id.extractLsb' 80 48 = 0xFFFFFFFFFFFF#48 ∧
    (filled.writeId 0x7fffffffffffffffffffffffffffffff).id.extractLsb' 80 48 = 0x7FFFFFFFFFFF#48 ∧
    filled.id = 0x0167f5d69a0c6bc8e4c2663aec52f757 := by decide

/-- The timestamps of every clause of the order statement, at its boundaries. -/
theorem witness_order :
    (filled.writeTs 0).ts.toInt = 0 ∧ (filled.writeTs 0xFFFFFFFFFFFF).ts.toInt = 2 ^ 48 - 1 ∧
    (filled.writeTs (BitVec.ofInt 64 (-2 ^ 47))).ts.toInt = -2 ^ 47 ∧
    (filled.writeTs 0x7FFFFFFFFFFF).ts.toInt = 2 ^ 47 - 1 ∧ (filled.writeTs 0x1000000000000).ts.toInt = 2 ^ 48 ∧
    (filled.writeTs (BitVec.ofInt 64 (-2 ^ 48))).ts.toInt = -2 ^ 48 ∧
    (nextOf (exec .pack (filled.writeTs 0))).isSome = true := by decide

/-- All-zero and all-ones operands (R67, R69, R83). -/
theorem witness_extremes :
    (filled.writeU 0).u = 0 ∧ (filled.writeU (BitVec.allOnes 128)).u.toNat = 2 ^ 128 - 1 ∧
    (filled.writeId (BitVec.allOnes 128)).id.toNat = 2 ^ 128 - 1 ∧
    (filled.writeF1 (BitVec.allOnes 32)).f1.toNat = 2 ^ 32 - 1 ∧
    identifierBytes filled.id =
      [1, 103, 245, 214, 154, 12, 107, 200, 228, 194, 102, 58, 236, 82, 247, 87] := by decide

theorem witness_system : ([filled, State.reset] : System)[1]? = some State.reset ∧
    (nextOf (step State.reset)).isSome = true := by decide

/-- Lines and literals for the statements on the assembler: a mnemonic in mixed case between blanks and before
a comment, digits of either base, a list of literals of both kinds, an unknown mnemonic, a refused line. -/
theorem witness_assembly :
    (ascii "fRomSlice").map fold = mnemonicName .fromSlice ∧
    (∀ c ∈ ascii "  " ++ ([0x09] : List Byte), c = 0x20 ∨ c = 0x09) ∧
    (ascii "; 0x09").head? = some 0x3B ∧ digitsValue 16 (ascii "fF") = some 255 ∧
    digitsValue 10 (ascii "256") = some 256 ∧
    List.Forall₂ (fun v (b : Byte) => UnsignedLiteral v b.toNat) [.decimal false 255, .hexadecimal 7] [255, 7] ∧
    (∀ i, (ascii "HALT").map fold ≠ mnemonicName i) ∧
    (0x0A : Byte) ∉ ascii "HALT" ∧ assembleLine params (ascii "HALT") = .error .unknownMnemonic ∧
    spell params (.word (.hexadecimal 0x12)) = .ok [.issue 0x12] := by
  refine ⟨rfl, by decide, rfl, rfl, rfl, ?_, fun i => by cases i <;> decide, by decide, rfl, rfl⟩
  exact .cons (.inl rfl) (.cons (.inr rfl) .nil)

/-- A text longer than `TXT` and a slice longer than `SLICE` still fit the narrowest length register. -/
theorem witness_wrstr : (ascii "05kzbnmt1hnwhs62crxermqqaww").length < 2 ^ 8 ∧
    (List.replicate 255 (0 : Byte)).length < 2 ^ 8 ∧ ([] : List Byte).length < 2 ^ 8 ∧ 255 < 256 := by
  exact ⟨by decide, by rw [List.length_replicate]; decide, by decide, by decide⟩

end Sys2Proof.Tests
end

section
/-! What one input can come to, said once, and the register invariant along every step (family 00_scope.md). -/

namespace Sys2Proof.Machine

/-- A host write goes on exactly where the value has its register's width (R38). -/
theorem perform_write_eq_next_iff {v : PortValue} {s t : State} :
    perform (.write v) s = .next t ↔ v.fits s.params = true ∧ t = s.hostWrite v := by
  by_cases hv : v.fits s.params = true <;> simp [perform, hv, eq_comm]

/-- Issuing a legal word performs its command (R37). -/
theorem issue_of_decode_eq_ok {w : BitVec 8} {i : Instr} (h : decode w = .ok i) (s : State) :
    issue w s = .next (s.after i) := by
  simp [issue, h, exec_eq_next]

/-- Issuing a reserved word records it and does nothing else (R100). -/
theorem issue_of_decode_eq_error {w : BitVec 8} {e : ReservedWord} (h : decode w = .error e)
    (s : State) : issue w s = .next (s.setStatus (.illegalCommand w)) := by
  simp [issue, h]

/-- A step that goes on either waits, with no input presented, or performs the first input (R44, R121). -/
theorem step_eq_next_cases {s t : State} (h : step s = .next t) :
    (s.port = [] ∧ t = s) ∨
    ∃ x rest, s.port = x :: rest ∧ perform x { s with port := rest } = .next t := by
  unfold step nextInput at h
  cases hport : s.port with
  | nil =>
    rw [hport] at h
    exact .inl ⟨rfl, (Host.Outcome.next.inj h).symm⟩
  | cons x rest =>
    rw [hport] at h
    exact .inr ⟨x, rest, rfl, h⟩

/-- The outcome OK is an all-zero status word (R26). -/
theorem CommandStatus.word_ok : CommandStatus.ok.word = 0 := by decide

/-- `LEN_WIDTH` is at least 8, so every length up to 255 fits (R6). -/
theorem two_pow_eight_le_of_wellFormed {p : Config.Params} (h : p.wellFormed = true) :
    2 ^ 8 ≤ 2 ^ p.lenWidth :=
  Nat.pow_le_pow_right (by decide) (of_decide_eq_true h)

/-- The invariant speaks of the parameters, the two lengths, `STATUS` and `ERR_FOUND` alone. -/
theorem Inv.of_eq {s t : State} (h : Inv s) (hp : t.params = s.params) (htl : t.txtLen = s.txtLen)
    (hsl : t.sliceLen = s.sliceLen) (hst : t.status = s.status) (hef : t.errFound = s.errFound) :
    Inv t := by
  obtain ⟨params, txtLen, sliceLen, outcome⟩ := h
  constructor <;> simpa only [hp, htl, hsl, hst, hef]

/-- A reset state meets the invariant: both lengths are 0, and the outcome is OK. -/
theorem inv_resetWith {p : Config.Params} (h : p.wellFormed = true) : Inv (State.resetWith p) :=
  ⟨h, Nat.two_pow_pos _, Nat.two_pow_pos _, .ok, trivial, CommandStatus.word_ok.symm, rfl⟩

theorem inv_afterReset {s : State} (h : Inv s) : Inv s.afterReset :=
  (inv_resetWith h.params).of_eq rfl rfl rfl rfl rfl

theorem inv_writeTxtLen {s : State} (h : Inv s) {n : Nat} (hn : n < 2 ^ s.params.lenWidth) :
    Inv (s.writeTxtLen n) :=
  ⟨h.params, hn, h.sliceLen, h.outcome⟩

theorem inv_writeSliceLen {s : State} (h : Inv s) {n : Nat} (hn : n < 2 ^ s.params.lenWidth) :
    Inv (s.writeSliceLen n) :=
  ⟨h.params, h.txtLen, hn, h.outcome⟩

theorem inv_writeId {s : State} (h : Inv s) (v : Identifier) : Inv (s.writeId v) :=
  h.of_eq rfl rfl rfl rfl rfl

theorem inv_writeTs {s : State} (h : Inv s) (v : BitVec 64) : Inv (s.writeTs v) :=
  h.of_eq rfl rfl rfl rfl rfl

theorem inv_writeU {s : State} (h : Inv s) (v : BitVec 128) : Inv (s.writeU v) :=
  h.of_eq rfl rfl rfl rfl rfl

theorem inv_writeFields {s : State} (h : Inv s) (v : Identifier) : Inv (s.writeFields v) :=
  h.of_eq (s.writeFields_params v) (s.writeFields_txtLen v) (s.writeFields_sliceLen v)
    (s.writeFields_status v) (s.writeFields_errFound v)

theorem inv_writeTxt {s : State} (h : Inv s) (text : Vector Byte 26) : Inv (s.writeTxt text) :=
  h.of_eq rfl rfl rfl rfl rfl

/-- The outcome OK is possible in every block (R96). -/
theorem inv_setStatus_ok {s : State} (h : Inv s) : Inv (s.setStatus .ok) :=
  inv_setStatus h (k := .ok) trivial

/-- A host write of a value of its register's width: only the two lengths can touch the invariant, since
`STATUS` and `ERR_FOUND` take no host write (R29, R38). -/
theorem inv_hostWrite {s : State} (h : Inv s) {v : PortValue} (hv : v.fits s.params = true) :
    Inv (s.hostWrite v) := by
  cases v with
  | txtLen n => exact inv_writeTxtLen h (of_decide_eq_true hv)
  | sliceLen n => exact inv_writeSliceLen h (of_decide_eq_true hv)
  | _ => exact h.of_eq rfl rfl rfl rfl rfl

/-- The encoders write the length 26, which fits every legal `LEN_WIDTH` (R6, R83). -/
theorem inv_encoded {s : State} (h : Inv s) (alphabet : List Byte) : Inv (s.encoded alphabet) := by
  have hlen : Config.txtChars < 2 ^ s.params.lenWidth :=
    Nat.lt_of_lt_of_le (by decide) (two_pow_eight_le_of_wellFormed h.params)
  exact inv_setStatus_ok (inv_writeTxtLen (inv_writeTxt h _) hlen)

/-- DEC records a rejected length, which fits as `TXT_LEN` does, or an octet the lookup rejects, or OK. -/
theorem inv_decoded {s : State} (h : Inv s) : Inv s.decoded := by
  obtain ⟨hlen, heq⟩ | ⟨-, p, hinvalid, -, heq⟩ | ⟨-, val, -, heq⟩ := s.decoded_cases <;> rw [heq]
  · exact inv_setStatus h ⟨hlen, h.txtLen⟩
  · exact inv_setStatus h hinvalid
  · exact inv_setStatus_ok (inv_writeId h _)

/-- FROMSLICE records a rejected length, which fits as `SLICE_LEN` does, or OK. -/
theorem inv_fromSlice {s : State} (h : Inv s) : Inv s.fromSlice := by
  obtain ⟨hlen, heq⟩ | ⟨-, heq⟩ := s.fromSlice_cases <;> rw [heq]
  · exact inv_setStatus h ⟨hlen, h.sliceLen⟩
  · exact inv_setStatus_ok (inv_writeId h _)

/-- Every command keeps the invariant. -/
theorem inv_after {s : State} (h : Inv s) (i : Instr) : Inv (s.after i) := by
  cases i with
  | encL => exact inv_encoded h _
  | encU => exact inv_encoded h _
  | dec => exact inv_decoded h
  | fromSlice => exact inv_fromSlice h
  | pack => exact inv_setStatus_ok (inv_writeId h _)
  | packF => exact inv_setStatus_ok (inv_writeId h _)
  | fromInt => exact inv_setStatus_ok (inv_writeId h _)
  | millis => exact inv_setStatus_ok (inv_writeTs h _)
  | unpackF => exact inv_setStatus_ok (inv_writeFields h _)
  | toInt => exact inv_setStatus_ok (inv_writeU h _)

/-- Every command word keeps the invariant: a legal one by its command, a reserved one because it records
itself, which no command decodes to. -/
theorem inv_issue {s t : State} (h : Inv s) {w : BitVec 8} (ht : issue w s = .next t) : Inv t := by
  cases hw : decode w with
  | ok i =>
    obtain rfl := Host.Outcome.next.inj ((issue_of_decode_eq_ok hw s).symm.trans ht)
    exact inv_after h i
  | error e =>
    obtain rfl := Host.Outcome.next.inj ((issue_of_decode_eq_error hw s).symm.trans ht)
    exact inv_setStatus (k := .illegalCommand w) h fun i hi => by simp [hw] at hi

/-- Every input keeps the invariant. -/
theorem inv_perform {s t : State} (h : Inv s) {x : PortInput} (ht : perform x s = .next t) : Inv t := by
  cases x with
  | write v =>
    obtain ⟨hv, rfl⟩ := perform_write_eq_next_iff.1 ht
    exact inv_hostWrite h hv
  | read r =>
    obtain rfl := Host.Outcome.next.inj ht
    exact h.of_eq rfl rfl rfl rfl rfl
  | issue w => exact inv_issue h ht
  | reset =>
    obtain rfl := Host.Outcome.next.inj ht
    exact inv_afterReset h

/-- Settles O15: a step waits or performs one input, every input keeps the invariant, and taking the input
off the port touches no register. -/
theorem stepKeepsTheInvariant : Obligations.StepKeepsTheInvariant := by
  intro s t h ht
  obtain ⟨-, rfl⟩ | ⟨x, rest, -, hx⟩ := step_eq_next_cases ht
  · exact h
  · exact inv_perform (s := { s with port := rest }) (h.of_eq rfl rfl rfl rfl rfl) hx

/-- Settles O14: the lengths are 0 after reset, the outcome is OK, and the default parameters are legal. -/
theorem resetMeetsTheInvariant : Obligations.ResetMeetsTheInvariant :=
  ⟨fun _ hp => inv_resetWith hp, inv_resetWith (by decide)⟩

end Sys2Proof.Machine
end

section
/-! A command as a row of host writes and an outcome, what the spec's model does not tell apart, and where
its runs stop (family 10_state.md). -/

namespace Sys2Proof.Machine

/-! ### Host writes -/

/-- A host write to `STATUS` or `ERR_FOUND` is ignored (R29). -/
theorem State.hostWrite_of_ignored {v : PortValue} (h : v.reg = .status ∨ v.reg = .errFound) (s : State) :
    s.hostWrite v = s := by
  cases v with
  | status | errFound => rfl
  | _ => simp [PortValue.reg] at h

/-- A register that takes host writes holds the value written (R38). -/
theorem State.read_hostWrite_reg {v : PortValue} (hst : v.reg ≠ .status) (hef : v.reg ≠ .errFound)
    (s : State) : (s.hostWrite v).read v.reg = v := by
  cases v with
  | status => exact absurd rfl hst
  | errFound => exact absurd rfl hef
  | txt i x => simp [State.hostWrite, State.read, PortValue.reg]
  | slice i x => simp [State.hostWrite, State.read, PortValue.reg]
  | _ => rfl

/-- A host write leaves the value and the written bit of every other register (R38). -/
theorem State.hostWrite_of_ne {v : PortValue} {r : PortReg} (h : r ≠ v.reg) (s : State) :
    (s.hostWrite v).read r = s.read r ∧ (s.hostWrite v).isWritten r = s.isWritten r := by
  cases v with
  | id x => exact ⟨State.read_writeId x h, State.isWritten_writeId x h⟩
  | ts x => exact ⟨State.read_writeTs x h, State.isWritten_writeTs x h⟩
  | rnd x => exact ⟨State.read_writeRnd x h, State.isWritten_writeRnd x h⟩
  | f1 x => exact ⟨State.read_writeF1 x h, State.isWritten_writeF1 x h⟩
  | f2 x => exact ⟨State.read_writeF2 x h, State.isWritten_writeF2 x h⟩
  | f3 x => exact ⟨State.read_writeF3 x h, State.isWritten_writeF3 x h⟩
  | f4 x => exact ⟨State.read_writeF4 x h, State.isWritten_writeF4 x h⟩
  | f5 x => exact ⟨State.read_writeF5 x h, State.isWritten_writeF5 x h⟩
  | u x => exact ⟨State.read_writeU x h, State.isWritten_writeU x h⟩
  | txtLen n => exact ⟨State.read_writeTxtLen n h, State.isWritten_writeTxtLen n h⟩
  | sliceLen n => exact ⟨State.read_writeSliceLen n h, State.isWritten_writeSliceLen n h⟩
  | txt i x => exact ⟨State.read_writeTxtAt i x h, State.isWritten_writeTxtAt i x h⟩
  | slice i x => exact ⟨State.read_writeSliceAt i x h, State.isWritten_writeSliceAt i x h⟩
  | status | errFound => exact ⟨rfl, rfl⟩

@[simp] theorem State.hostWrite_params (s : State) (v : PortValue) : (s.hostWrite v).params = s.params := by
  cases v <;> rfl

@[simp] theorem State.hostWrite_port (s : State) (v : PortValue) : (s.hostWrite v).port = s.port := by
  cases v <;> rfl

@[simp] theorem State.hostWrite_reads (s : State) (v : PortValue) : (s.hostWrite v).reads = s.reads := by
  cases v <;> rfl

/-- Which written bits a host write leaves depends on the written bits before it alone. -/
theorem State.written_hostWrite_congr {s t : State} (h : s.written = t.written) (v : PortValue) :
    (s.hostWrite v).written = (t.hostWrite v).written := by
  cases v <;> simp [State.hostWrite, h]

/-- After one host write two states agree on a register where they agreed before, and on the register
written even where they did not. -/
theorem State.read_hostWrite_congr {s t : State} {v : PortValue} {r : PortReg}
    (h : r ≠ v.reg ∨ r = .status ∨ r = .errFound → s.read r = t.read r) :
    (s.hostWrite v).read r = (t.hostWrite v).read r := by
  by_cases hr : r = v.reg
  · subst hr
    by_cases hv : v.reg = .status ∨ v.reg = .errFound
    · rw [s.hostWrite_of_ignored hv, t.hostWrite_of_ignored hv, h (.inr hv)]
    · obtain ⟨hst, hef⟩ := not_or.1 hv
      rw [s.read_hostWrite_reg hst hef, t.read_hostWrite_reg hst hef]
  · rw [(s.hostWrite_of_ne hr).1, (t.hostWrite_of_ne hr).1, h (.inl hr)]

/-- The host writes of a list of values, in order. -/
def State.hostWrites (s : State) (vs : List PortValue) : State := vs.foldl State.hostWrite s

/-- Host writes whose values fit are a run of the block (R38, R44). -/
theorem runInputs_writes {vs : List PortValue} {s : State} (h : ∀ v ∈ vs, v.fits s.params = true) :
    runInputs (vs.map .write) s = .next (s.hostWrites vs) := by
  induction vs generalizing s with
  | nil => rfl
  | cons v vs ih =>
    simp only [List.mem_cons, forall_eq_or_imp] at h
    rw [List.map_cons, runInputs_cons_of_next (perform_write_eq_next_iff.2 ⟨h.1, rfl⟩)]
    exact ih (by simpa using h.2)

/-- After host writes of one list of values two states agree on a register where they agreed before, and on
each register written even where they did not. -/
theorem State.read_hostWrites_congr {vs : List PortValue} {s t : State} {r : PortReg}
    (h : r ∉ vs.map PortValue.reg ∨ r = .status ∨ r = .errFound → s.read r = t.read r) :
    (s.hostWrites vs).read r = (t.hostWrites vs).read r := by
  induction vs generalizing s t with
  | nil => exact h (.inl List.not_mem_nil)
  | cons v vs ih =>
    refine ih fun hvs => State.read_hostWrite_congr fun hv => h ?_
    simp only [List.map_cons, List.mem_cons]
    tauto

/-- The host writes of all elements of `TXT` are the spelling of its whole text (R63). -/
theorem map_write_txt (text : Vector Byte 26) :
    ((List.finRange 26).map fun i => PortValue.txt i text[i]).map .write =
      txtWrites text.toList := by
  rw [List.map_map, ← List.filterMap_eq_map]
  exact List.filterMap_congr fun i _ => by simp

/-- All of `TXT` is written by one host write for each element. -/
theorem State.hostWrites_txt (s : State) (text : Vector Byte 26) :
    s.hostWrites ((List.finRange 26).map fun i => .txt i text[i]) = s.writeTxt text := by
  obtain ⟨els, bits, hrun, hels⟩ := runInputs_txtWrites text.toList [] (List.finRange 26) s
  have htxt : els = text := Vector.ext fun i hi => by simpa [hi] using (hels ⟨i, hi⟩).1
  have hbits : bits = Vector.replicate 26 true :=
    Vector.ext fun i hi => by simpa [hi] using (hels ⟨i, hi⟩).2
  have hwrites := runInputs_writes (s := s)
    (vs := (List.finRange 26).map fun i => .txt i text[i]) (by simp [PortValue.fits])
  rw [map_write_txt] at hwrites
  rw [List.append_nil] at hrun
  rw [htxt, hbits] at hrun
  exact Host.Outcome.next.inj (hwrites.symm.trans hrun)

/-! ### DEC's scan -/

/-- The scan comes to the same on two texts that agree up to and including the first invalid character
of the first (R87). -/
theorem scanFrom_congr {α : Type} {o : Bool} {f g : α → Byte} {is : List α}
    (h : ∀ i ∈ is.take (scanLength o (is.map f)), f i = g i) (p : Nat) :
    scanFrom o p (is.map f) = scanFrom o p (is.map g) := by
  induction is generalizing p with
  | nil => rfl
  | cons i is ih =>
    cases hf : lookup o (f i) with
    | none =>
      have hi : f i = g i := h i (by simp [scanLength, hf])
      simp [scanFrom, ← hi, hf]
    | some v =>
      simp only [List.map_cons, scanLength, hf, List.take_succ_cons, List.mem_cons, forall_eq_or_imp] at h
      simp [scanFrom, ← h.1, hf, ih h.2]

/-- The scan reads the first character, and goes on only if that is valid (R87). -/
theorem scanLength_cons (o : Bool) (c : Byte) (cs : List Byte) :
    scanLength o (c :: cs) = (if lookup o c = none then 0 else scanLength o cs) + 1 := by
  cases hc : lookup o c <;> simp [scanLength, hc]

/-- Where two texts agree on every element without a mark, the scans of both meet the same marked element
first, or both meet none. -/
theorem find?_take_scanLength_congr {α : Type} {o : Bool} {f g : α → Byte} {marked : α → Bool}
    {is : List α} (h : ∀ i ∈ is, marked i = false → f i = g i) :
    (is.take (scanLength o (is.map f))).find? marked =
      (is.take (scanLength o (is.map g))).find? marked := by
  induction is with
  | nil => rfl
  | cons i is ih =>
    simp only [List.mem_cons, forall_eq_or_imp] at h
    simp only [List.map_cons, scanLength_cons, List.take_succ_cons, List.find?_cons]
    cases hm : marked i with
    | true => rfl
    | false =>
      rw [← h.1 hm]
      by_cases hf : lookup o (f i) = none
      · simp [hf]
      · simpa [hf] using ih h.2

/-- `TXT` as the row of its elements. -/
theorem State.toList_txt (s : State) : s.txt.toList = (List.finRange 26).map fun i => s.txt[i] := by
  apply List.ext_getElem <;> simp

/-- The characters DEC reaches, by their positions (R85). -/
theorem State.scannedText_eq (s : State) :
    s.scannedText = ((List.finRange 26).take (scanLength s.params.oAlias s.txt.toList)).map .txt :=
  List.map_take.symm

/-! ### Read orders -/

theorem operands_dec_of_length_eq {s : State} (h : s.txtLen = 26) :
    operands .dec s = .txtLen :: s.scannedText :=
  if_pos h

theorem operands_dec_of_length_ne {s : State} (h : s.txtLen ≠ 26) : operands .dec s = [.txtLen] :=
  if_neg h

theorem operands_fromSlice_of_length_eq {s : State} (h : s.sliceLen = 16) :
    operands .fromSlice s = .sliceLen :: (List.finRange 16).map .slice :=
  if_pos h

theorem operands_fromSlice_of_length_ne {s : State} (h : s.sliceLen ≠ 16) :
    operands .fromSlice s = [.sliceLen] :=
  if_neg h

theorem txtLen_mem_operands_dec (s : State) : .txtLen ∈ operands .dec s := by
  by_cases h : s.txtLen = 26
  · simp [operands_dec_of_length_eq h]
  · simp [operands_dec_of_length_ne h]

theorem sliceLen_mem_operands_fromSlice (s : State) : .sliceLen ∈ operands .fromSlice s := by
  by_cases h : s.sliceLen = 16
  · simp [operands_fromSlice_of_length_eq h]
  · simp [operands_fromSlice_of_length_ne h]

theorem State.firstUnwritten_cons (s : State) (r : PortReg) (rest : List PortReg) :
    s.firstUnwritten (r :: rest) = if s.isWritten r = true then s.firstUnwritten rest else some r := by
  cases h : s.isWritten r <;> simp [State.firstUnwritten, h]

/-- DEC reads `TXT_LEN` first (R85). -/
theorem firstUnwritten_operands_dec_of_unwritten_length {s : State} (h : s.isWritten .txtLen = false) :
    s.firstUnwritten (operands .dec s) = some .txtLen := by
  by_cases h26 : s.txtLen = 26
  · simp [operands_dec_of_length_eq h26, State.firstUnwritten_cons, h]
  · simp [operands_dec_of_length_ne h26, State.firstUnwritten_cons, h]

/-- FROMSLICE reads `SLICE_LEN` first (R71). -/
theorem firstUnwritten_operands_fromSlice_of_unwritten_length {s : State}
    (h : s.isWritten .sliceLen = false) : s.firstUnwritten (operands .fromSlice s) = some .sliceLen := by
  by_cases h16 : s.sliceLen = 16
  · simp [operands_fromSlice_of_length_eq h16, State.firstUnwritten_cons, h]
  · simp [operands_fromSlice_of_length_ne h16, State.firstUnwritten_cons, h]

/-! ### What a command does is a row of host writes and an outcome -/

/-- The two states are one to the command: the same parameters, and the same values in the registers that
it reads in the first (R55). -/
def SameOperands (i : Instr) (s t : State) : Prop :=
  s.params = t.params ∧ ∀ r ∈ operands i s, s.read r = t.read r

theorem SameOperands.id_eq {i : Instr} {s t : State} (h : SameOperands i s t) (hi : .id ∈ operands i s) :
    s.id = t.id :=
  PortValue.id.inj (h.2 .id hi)

/-- The command leaves of both states what the host writes `vs` and the outcome `k` leave, and writes its
results or nothing. -/
def WritesAlike (i : Instr) (s t : State) (vs : List PortValue) (k : CommandStatus) : Prop :=
  s.after i = (s.hostWrites vs).setStatus k ∧ t.after i = (t.hostWrites vs).setStatus k ∧
    (vs = [] ∨ vs.map PortValue.reg = results i)

/-- The encoders, as host writes (R83, R84). -/
theorem State.encoded_eq_hostWrites (s : State) (alphabet : List Byte) :
    s.encoded alphabet = (s.hostWrites (((List.finRange 26).map fun i =>
      .txt i (encodeText alphabet s.id)[i]) ++ [.txtLen 26])).setStatus .ok := by
  have h := s.hostWrites_txt (encodeText alphabet s.id)
  unfold State.hostWrites at h ⊢
  rw [List.foldl_append, h]
  rfl

/-- DEC of another length than 26 (R86). -/
theorem State.decoded_of_length_ne {s : State} (h : s.txtLen ≠ 26) :
    s.decoded = s.setStatus (.invalidLength s.txtLen) :=
  if_pos h

/-- DEC where the scan meets an invalid character (R87). -/
theorem State.decoded_of_scan_error {s : State} {c : Byte} {p : Nat} (h : s.txtLen = 26)
    (hs : scanFrom s.params.oAlias 0 s.txt.toList = .error (c, p)) :
    s.decoded = s.setStatus (.invalidCharacter c (BitVec.ofNat 3 (p % 8))) := by
  simp [State.decoded, Config.txtChars, Config.groupSymbols, h, hs]

/-- DEC where the scan gives the values of all characters (R88, R89). -/
theorem State.decoded_of_scan_ok {s : State} {val : List Symbol} (h : s.txtLen = 26)
    (hs : scanFrom s.params.oAlias 0 s.txt.toList = .ok val) :
    s.decoded = (s.writeId (decodeIdentifier val)).setStatus .ok := by
  simp [State.decoded, Config.txtChars, h, hs]

/-- FROMSLICE of another length than 16 (R72). -/
theorem State.fromSlice_of_length_ne {s : State} (h : s.sliceLen ≠ 16) :
    s.fromSlice = s.setStatus (.bytesError s.sliceLen) :=
  if_pos h

/-- FROMSLICE of sixteen bytes (R71). -/
theorem State.fromSlice_of_length_eq {s : State} (h : s.sliceLen = 16) :
    s.fromSlice = (s.writeId (joinBytes s.slice.toList)).setStatus .ok :=
  if_neg (not_not.2 h)

/-- DEC of the same operands scans to the same: it reads the text as far as the scan goes. -/
theorem writesAlike_dec {s t : State} (h : SameOperands .dec s t) : ∃ vs k, WritesAlike .dec s t vs k := by
  obtain ⟨hparams, hread⟩ := h
  have hlen : s.txtLen = t.txtLen := PortValue.txtLen.inj (hread .txtLen (txtLen_mem_operands_dec s))
  by_cases h26 : s.txtLen = 26
  · have h26' : t.txtLen = 26 := hlen.symm.trans h26
    have hscan : scanFrom s.params.oAlias 0 s.txt.toList = scanFrom t.params.oAlias 0 t.txt.toList := by
      rw [← hparams, s.toList_txt, t.toList_txt]
      refine scanFrom_congr (fun i hi => ?_) 0
      have hi' : .txt i ∈ operands .dec s := by
        rw [operands_dec_of_length_eq h26, s.scannedText_eq, s.toList_txt]
        exact List.mem_cons_of_mem _ (List.mem_map_of_mem hi)
      exact (PortValue.txt.inj (hread _ hi')).2
    cases hs : scanFrom s.params.oAlias 0 s.txt.toList with
    | error e =>
      exact ⟨[], _, s.decoded_of_scan_error h26 hs, t.decoded_of_scan_error h26' (hscan ▸ hs), .inl rfl⟩
    | ok val =>
      exact ⟨[.id (decodeIdentifier val)], .ok, s.decoded_of_scan_ok h26 hs,
        t.decoded_of_scan_ok h26' (hscan ▸ hs), .inr rfl⟩
  · exact ⟨[], _, s.decoded_of_length_ne h26, hlen ▸ t.decoded_of_length_ne (hlen ▸ h26), .inl rfl⟩

/-- FROMSLICE of the same operands accepts or rejects the same length, and reads the slice only to accept. -/
theorem writesAlike_fromSlice {s t : State} (h : SameOperands .fromSlice s t) :
    ∃ vs k, WritesAlike .fromSlice s t vs k := by
  obtain ⟨-, hread⟩ := h
  have hlen : s.sliceLen = t.sliceLen :=
    PortValue.sliceLen.inj (hread .sliceLen (sliceLen_mem_operands_fromSlice s))
  by_cases h16 : s.sliceLen = 16
  · have hslice : s.slice = t.slice := Vector.ext fun i hi => by
      have hmem : .slice ⟨i, hi⟩ ∈ operands .fromSlice s := by
        simp [operands_fromSlice_of_length_eq h16]
      exact (PortValue.slice.inj (hread _ hmem)).2
    exact ⟨[.id (joinBytes s.slice.toList)], .ok, s.fromSlice_of_length_eq h16,
      hslice ▸ t.fromSlice_of_length_eq (hlen ▸ h16), .inr rfl⟩
  · exact ⟨[], _, s.fromSlice_of_length_ne h16, hlen ▸ t.fromSlice_of_length_ne (hlen ▸ h16), .inl rfl⟩

/-- A command that finds the same operands does the same: it writes the same values to the same registers
and records the same outcome (R28, R50). -/
theorem exists_writesAlike {i : Instr} {s t : State} (h : SameOperands i s t) :
    ∃ vs k, WritesAlike i s t vs k := by
  cases i with
  | dec => exact writesAlike_dec h
  | fromSlice => exact writesAlike_fromSlice h
  | encL =>
    have hid := h.id_eq (.head _)
    exact ⟨_, _, s.encoded_eq_hostWrites _, hid ▸ t.encoded_eq_hostWrites _, .inr rfl⟩
  | encU =>
    have hid := h.id_eq (.head _)
    exact ⟨_, _, s.encoded_eq_hostWrites _, hid ▸ t.encoded_eq_hostWrites _, .inr rfl⟩
  | pack =>
    obtain ⟨hts, hrnd⟩ : s.ts = t.ts ∧ s.rnd = t.rnd := by simpa [operands, State.read] using h.2
    exact ⟨[.id (packTimestamp s.ts s.rnd)], .ok, rfl, by rw [hts, hrnd]; rfl, .inr rfl⟩
  | millis =>
    have hid := h.id_eq (.head _)
    exact ⟨[.ts (timestampOf s.id)], .ok, rfl, by rw [hid]; rfl, .inr rfl⟩
  | packF =>
    obtain ⟨h1, h2, h3, h4, h5⟩ :
        s.f1 = t.f1 ∧ s.f2 = t.f2 ∧ s.f3 = t.f3 ∧ s.f4 = t.f4 ∧ s.f5 = t.f5 := by
      simpa [operands, State.read] using h.2
    exact ⟨[.id (packFields s.f1 s.f2 s.f3 s.f4 s.f5)], .ok, rfl, by rw [h1, h2, h3, h4, h5]; rfl,
      .inr rfl⟩
  | unpackF =>
    have hid := h.id_eq (.head _)
    exact ⟨[.f1 (fieldF1 s.id), .f2 (fieldF2 s.id), .f3 (fieldF3 s.id), .f4 (fieldF4 s.id),
      .f5 (fieldF5 s.id)], .ok, rfl, by rw [hid]; rfl, .inr rfl⟩
  | fromInt =>
    have hu : s.u = t.u := by simpa [operands, State.read] using h.2
    exact ⟨[.id s.u], .ok, rfl, by rw [hu]; rfl, .inr rfl⟩
  | toInt =>
    have hid := h.id_eq (.head _)
    exact ⟨[.u s.id], .ok, rfl, by rw [hid]; rfl, .inr rfl⟩

/-- Recording an outcome changes `STATUS` and `ERR_FOUND` only. -/
theorem onlyChanges_setStatus (s : State) (k : CommandStatus) : OnlyChanges [] s (s.setStatus k) :=
  ⟨rfl, rfl, rfl, fun _ _ hst hef => ⟨State.read_setStatus hst hef, State.isWritten_setStatus ..⟩⟩

/-- After one outcome is recorded two states agree on a register where they agreed before. -/
theorem State.read_setStatus_congr {s t : State} {r : PortReg} (h : s.read r = t.read r)
    (k : CommandStatus) : (s.setStatus k).read r = (t.setStatus k).read r := by
  cases r with
  | status | errFound => rfl
  | _ => exact h

theorem ne_status_and_ne_errFound_of_mem_results {i : Instr} {r : PortReg} (h : r ∈ results i) :
    r ≠ .status ∧ r ≠ .errFound := by
  constructor <;> rintro rfl <;> cases i <;> simp [results] at h

/-- Settles O18: the command makes the same host writes and records the same outcome from both states, so
each register it writes holds the same value after. -/
theorem commandDependsOnlyOnItsOperands : Obligations.CommandDependsOnlyOnItsOperands := by
  intro i s s' t t' hparams hread ht ht'
  obtain rfl := Host.Outcome.next.inj ((exec_eq_next i s).symm.trans ht)
  obtain rfl := Host.Outcome.next.inj ((exec_eq_next i s').symm.trans ht')
  obtain ⟨vs, k, hs, hs', hvs⟩ := exists_writesAlike ⟨hparams, hread⟩
  rw [hs, hs']
  refine ⟨rfl, rfl, ?_⟩
  obtain rfl | hvs := hvs
  · exact .inr ⟨onlyChanges_setStatus s k, onlyChanges_setStatus s' k⟩
  · refine .inl fun r hr => State.read_setStatus_congr (State.read_hostWrites_congr fun h => ?_) k
    obtain ⟨hst, hef⟩ := ne_status_and_ne_errFound_of_mem_results hr
    obtain hmem | rfl | rfl := h
    · exact absurd (hvs ▸ hr) hmem
    · exact absurd rfl hst
    · exact absurd rfl hef

/-- Settles O26: the written bits are none of the values a command reads, so it makes the same host writes
with others, on the same values. -/
theorem heldValuesRunAsWrittenOnes : Obligations.HeldValuesRunAsWrittenOnes := by
  intro i s w
  have hread (r : PortReg) : s.read r = { s with written := w }.read r := rfl
  obtain ⟨vs, k, hs, hs', -⟩ := exists_writesAlike (i := i) (s := s) (t := { s with written := w })
    ⟨rfl, fun r _ => hread r⟩
  refine ⟨_, _, exec_eq_next i s, exec_eq_next i _, fun r => ?_⟩
  rw [hs, hs']
  exact State.read_setStatus_congr (State.read_hostWrites_congr fun _ => (hread r).symm) k

/-! ### What the spec's model does not tell apart -/

theorem SameWhereWritten.params_eq {s t : State} (h : SameWhereWritten s t) : s.params = t.params := h.1

theorem SameWhereWritten.port_eq {s t : State} (h : SameWhereWritten s t) : s.port = t.port := h.2.2.1

theorem SameWhereWritten.written_eq {s t : State} (h : SameWhereWritten s t) : s.written = t.written := h.2.1

theorem SameWhereWritten.read_eq {s t : State} (h : SameWhereWritten s t) {r : PortReg}
    (hr : s.isWritten r = true) : s.read r = t.read r := h.2.2.2.2 r hr

theorem SameWhereWritten.hostWrite {s t : State} (h : SameWhereWritten s t) (v : PortValue) :
    SameWhereWritten (s.hostWrite v) (t.hostWrite v) := by
  obtain ⟨hparams, hwritten, hport, hreads, hread⟩ := h
  refine ⟨by simpa, State.written_hostWrite_congr hwritten v, by simpa, by simpa, fun r hr => ?_⟩
  refine State.read_hostWrite_congr fun hne => hread r ?_
  obtain hne | rfl | rfl := hne
  · exact (s.hostWrite_of_ne hne).2 ▸ hr
  · rfl
  · rfl

theorem SameWhereWritten.hostWrites {s t : State} (h : SameWhereWritten s t) (vs : List PortValue) :
    SameWhereWritten (s.hostWrites vs) (t.hostWrites vs) := by
  induction vs generalizing s t with
  | nil => exact h
  | cons v vs ih => exact ih (h.hostWrite v)

theorem SameWhereWritten.setStatus {s t : State} (h : SameWhereWritten s t) (k : CommandStatus) :
    SameWhereWritten (s.setStatus k) (t.setStatus k) := by
  obtain ⟨hparams, hwritten, hport, hreads, hread⟩ := h
  exact ⟨hparams, hwritten, hport, hreads,
    fun r hr => State.read_setStatus_congr (hread r (s.isWritten_setStatus k r ▸ hr)) k⟩

theorem SameWhereWritten.recordRead {s t : State} (h : SameWhereWritten s t) (v : PortValue) :
    SameWhereWritten (s.recordRead v) (t.recordRead v) := by
  obtain ⟨hparams, hwritten, hport, hreads, hread⟩ := h
  exact ⟨hparams, hwritten, hport, by simp [hreads], hread⟩

theorem SameWhereWritten.withPort {s t : State} (h : SameWhereWritten s t) (rest : List PortInput) :
    SameWhereWritten { s with port := rest } { t with port := rest } := by
  obtain ⟨hparams, hwritten, -, hreads, hread⟩ := h
  exact ⟨hparams, hwritten, rfl, hreads, hread⟩

theorem SameWhereWritten.afterReset {s t : State} (h : SameWhereWritten s t) :
    s.afterReset = t.afterReset := by
  obtain ⟨hparams, -, hport, -, -⟩ := h
  simp [State.afterReset, hparams, hport]

theorem SameWhereWritten.refl (s : State) : SameWhereWritten s s := ⟨rfl, rfl, rfl, rfl, fun _ _ => rfl⟩

theorem SameWhereWritten.firstUnwritten_eq {s t : State} (h : SameWhereWritten s t) (order : List PortReg) :
    s.firstUnwritten order = t.firstUnwritten order :=
  State.firstUnwritten_congr fun r _ => State.isWritten_congr h.written_eq r

/-- The scan of DEC meets the same first unwritten character in both states: up to there the texts agree. -/
theorem SameWhereWritten.firstUnwritten_scannedText {s t : State} (h : SameWhereWritten s t) :
    s.firstUnwritten s.scannedText = t.firstUnwritten t.scannedText := by
  rw [h.firstUnwritten_eq s.scannedText, s.scannedText_eq, t.scannedText_eq]
  obtain ⟨hparams, hwritten, -, -, hread⟩ := h
  simp only [State.firstUnwritten, List.find?_map, hparams, s.toList_txt, t.toList_txt]
  congr 1
  refine find?_take_scanLength_congr fun p _ hp => (PortValue.txt.inj (hread (.txt p) ?_)).2
  rw [State.isWritten_congr hwritten]
  simpa using hp

theorem SameWhereWritten.firstUnwritten_dec {s t : State} (h : SameWhereWritten s t) :
    s.firstUnwritten (operands .dec s) = t.firstUnwritten (operands .dec t) := by
  have hw : s.isWritten .txtLen = t.isWritten .txtLen := State.isWritten_congr h.written_eq _
  cases hs : s.isWritten .txtLen with
  | false =>
    rw [firstUnwritten_operands_dec_of_unwritten_length hs,
      firstUnwritten_operands_dec_of_unwritten_length (hw ▸ hs)]
  | true =>
    have hlen : s.txtLen = t.txtLen := PortValue.txtLen.inj (h.read_eq hs)
    by_cases h26 : s.txtLen = 26
    · rw [operands_dec_of_length_eq h26, operands_dec_of_length_eq (hlen ▸ h26)]
      simp only [State.firstUnwritten_cons, hw, h.firstUnwritten_scannedText]
    · rw [operands_dec_of_length_ne h26, operands_dec_of_length_ne (hlen ▸ h26), h.firstUnwritten_eq]

theorem SameWhereWritten.firstUnwritten_fromSlice {s t : State} (h : SameWhereWritten s t) :
    s.firstUnwritten (operands .fromSlice s) = t.firstUnwritten (operands .fromSlice t) := by
  have hw : s.isWritten .sliceLen = t.isWritten .sliceLen := State.isWritten_congr h.written_eq _
  cases hs : s.isWritten .sliceLen with
  | false =>
    rw [firstUnwritten_operands_fromSlice_of_unwritten_length hs,
      firstUnwritten_operands_fromSlice_of_unwritten_length (hw ▸ hs)]
  | true =>
    have hlen : s.sliceLen = t.sliceLen := PortValue.sliceLen.inj (h.read_eq hs)
    have hsame : operands .fromSlice s = operands .fromSlice t := by simp only [operands, hlen]
    rw [hsame, h.firstUnwritten_eq]

/-- A command meets the same first unwritten register in both states, though its read order may depend on
what it reads (R55): up to that register it depends on written ones alone. -/
theorem SameWhereWritten.firstUnwritten_operands {s t : State} (h : SameWhereWritten s t) (i : Instr) :
    s.firstUnwritten (operands i s) = t.firstUnwritten (operands i t) := by
  cases i with
  | dec => exact h.firstUnwritten_dec
  | fromSlice => exact h.firstUnwritten_fromSlice
  | _ => exact h.firstUnwritten_eq _

theorem SameWhereWritten.firstUnwritten_registersRead {s t : State} (h : SameWhereWritten s t)
    (x : PortInput) : s.firstUnwritten (registersRead x s) = t.firstUnwritten (registersRead x t) := by
  cases x with
  | issue w =>
    cases hw : decode w with
    | ok i => simpa [registersRead, hw] using h.firstUnwritten_operands i
    | error e => simp [registersRead, hw, State.firstUnwritten]
  | _ => exact h.firstUnwritten_eq _

/-- A prepared command leaves two such states alike: its operands are written, so it makes the same writes. -/
theorem SameWhereWritten.after {s t : State} (h : SameWhereWritten s t) {i : Instr} (hp : Prepared i s) :
    SameWhereWritten (s.after i) (t.after i) := by
  have hwritten := State.firstUnwritten_eq_none_iff.1 hp
  obtain ⟨vs, k, hs, ht, -⟩ := exists_writesAlike (i := i) (s := s) (t := t)
    ⟨h.params_eq, fun r hr => h.read_eq (hwritten r hr)⟩
  rw [hs, ht]
  exact (h.hostWrites vs).setStatus k

/-- A refused host write is refused in the spec's model too: it reads nothing. -/
theorem modelPerform_write_of_not_fits {v : PortValue} {s : State} (hv : v.fits s.params = false) :
    modelPerform (.write v) s = .refused (.valueTooWide v.reg) := by
  simp [modelPerform, registersRead, State.firstUnwritten, perform, hv]

/-- Where the input goes on in both states, the outcomes are alike if the next states are. -/
theorem sameOutcome_of_next {x : PortInput} {s t s' t' : State} (h : SameWhereWritten s t)
    (hp : s.firstUnwritten (registersRead x s) = none) (hs : perform x s = .next s')
    (ht : perform x t = .next t') (h' : SameWhereWritten s' t') :
    SameOutcome (modelPerform x s) (modelPerform x t) := by
  have hp' : t.firstUnwritten (registersRead x t) = none := h.firstUnwritten_registersRead x ▸ hp
  rw [modelPerform_eq_next_iff.2 ⟨hp, hs⟩, modelPerform_eq_next_iff.2 ⟨hp', ht⟩]
  exact h'

/-- One input comes to the same in both states. -/
theorem SameWhereWritten.modelPerform {s t : State} (h : SameWhereWritten s t) (x : PortInput) :
    SameOutcome (modelPerform x s) (modelPerform x t) := by
  have hfirst := h.firstUnwritten_registersRead x
  cases hp : s.firstUnwritten (registersRead x s) with
  | some r =>
    rw [modelPerform_eq_modelFault_iff.2 hp, modelPerform_eq_modelFault_iff.2 (hfirst ▸ hp)]
    rfl
  | none =>
    cases x with
    | write v =>
      cases hv : v.fits s.params with
      | true =>
        have hv' : v.fits t.params = true := h.params_eq ▸ hv
        exact sameOutcome_of_next h hp (perform_write_eq_next_iff.2 ⟨hv, rfl⟩)
          (perform_write_eq_next_iff.2 ⟨hv', rfl⟩) (h.hostWrite v)
      | false =>
        rw [modelPerform_write_of_not_fits hv, modelPerform_write_of_not_fits (h.params_eq ▸ hv)]
        rfl
    | read r =>
      have hr : s.isWritten r = true := State.firstUnwritten_eq_none_iff.1 hp r (.head _)
      have hread : s.read r = t.read r := h.read_eq hr
      exact sameOutcome_of_next h hp rfl rfl (hread ▸ h.recordRead (s.read r))
    | issue w =>
      cases hw : decode w with
      | ok i =>
        have hprep : Prepared i s := by simpa [registersRead, hw] using hp
        exact sameOutcome_of_next h hp (issue_of_decode_eq_ok hw s) (issue_of_decode_eq_ok hw t)
          (h.after hprep)
      | error e =>
        exact sameOutcome_of_next h hp (issue_of_decode_eq_error hw s) (issue_of_decode_eq_error hw t)
          (h.setStatus _)
    | reset => exact sameOutcome_of_next h hp rfl rfl (h.afterReset ▸ SameWhereWritten.refl _)

/-- Settles O25: both states present the same inputs, and the first of them comes to the same in both. -/
theorem unwrittenValuesNeverShow : Obligations.UnwrittenValuesNeverShow := by
  intro s t h
  unfold modelStep
  rw [← h.port_eq]
  cases s.port with
  | nil => exact h
  | cons x rest => exact (h.withPort rest).modelPerform x

/-! ### Where the spec's model stops -/

/-- Settles O23: an issued word reads the operands of its command, and every command completes. -/
theorem commandStopsOnlyAtAnUnwrittenOperand : Obligations.CommandStopsOnlyAtAnUnwrittenOperand := by
  intro i s
  refine ⟨fun r => ?_, fun t => ?_, s.after i, exec_eq_next i s⟩
  · rw [modelPerform_eq_modelFault_iff, registersRead_issue_encode]
  · rw [modelPerform_eq_next_iff, registersRead_issue_encode, perform_issue_encode]

/-- Settles O11: a host read reads the one register it names. -/
theorem unwrittenHostReadStops : Obligations.UnwrittenHostReadStops := by
  refine ⟨fun s r hr => ?_, fun s r hr => ?_, fun s => ⟨rfl, rfl⟩⟩
  · rw [modelPerform_eq_modelFault_iff, registersRead, State.firstUnwritten_cons]
    simp [hr]
  · refine modelPerform_eq_next_iff.2 ⟨State.firstUnwritten_eq_none_iff.2 ?_, rfl⟩
    simpa [registersRead] using hr

/-- The scan reaches a character where every one before it is valid (R87). -/
theorem lt_scanLength {o : Bool} {cs : List Byte} {k : Nat} (hk : k < cs.length)
    (h : ∀ j < k, ∀ c, cs[j]? = some c → lookup o c ≠ none) : k < scanLength o cs := by
  induction cs generalizing k with
  | nil => simp at hk
  | cons c cs ih =>
    rw [scanLength_cons]
    cases k with
    | zero => omega
    | succ k =>
      rw [if_neg (h 0 (by omega) c rfl)]
      exact Nat.succ_lt_succ (ih (Nat.lt_of_succ_lt_succ hk) fun j hj => h (j + 1) (by omega))

/-- What holds of the characters before position `p` holds of the row of them. -/
theorem State.forall_getElem?_toList_txt {s : State} {p : Fin 26} {P : Byte → Prop}
    (h : ∀ q < p, P s.txt[q]) : ∀ j < p.val, ∀ c, s.txt.toList[j]? = some c → P c := by
  intro j hj c hc
  obtain ⟨hj26, rfl⟩ := List.getElem?_eq_some_iff.1 hc
  simpa using h ⟨j, by omega⟩ hj

/-- After valid and written characters the scan meets an unwritten one first. -/
theorem firstUnwritten_scannedText_eq_some {s : State} {p : Fin 26} (hp : s.isWritten (.txt p) = false)
    (hwritten : ∀ q < p, s.isWritten (.txt q) = true)
    (hvalid : ∀ q < p, lookup s.params.oAlias s.txt[q] ≠ none) :
    s.firstUnwritten s.scannedText = some (.txt p) := by
  have hlt : p.val < scanLength s.params.oAlias s.txt.toList :=
    lt_scanLength (by simp) (State.forall_getElem?_toList_txt hvalid)
  have hfind : ((List.finRange 26).take (scanLength s.params.oAlias s.txt.toList)).find?
      (fun i => !s.isWritten (.txt i)) = some p := by
    refine List.find?_eq_some_iff_getElem.2 ⟨by simp [hp], p.val, by simp [hlt], by simp, fun j hj => ?_⟩
    simp [hwritten ⟨j, by omega⟩ hj]
  rw [s.scannedText_eq, State.firstUnwritten, List.find?_map]
  exact congrArg (Option.map PortReg.txt) hfind

/-- The scan stops at the first invalid character (R85). -/
theorem FirstInvalid.scannedText_eq {s : State} {p : Fin 26} (hp : FirstInvalid s p) :
    s.scannedText = ((List.finRange 26).take (p.val + 1)).map .txt := by
  rw [s.scannedText_eq, scanLength_of_first_invalid (c := s.txt[p]) (by simp) hp.1
    (State.forall_getElem?_toList_txt hp.2)]

/-- The scan reaches nothing after the first invalid character. -/
theorem FirstInvalid.forall_scannedText {s : State} {p : Fin 26} (hp : FirstInvalid s p)
    {P : PortReg → Prop} (h : ∀ q ≤ p, P (.txt q)) : ∀ r ∈ s.scannedText, P r := by
  intro r hr
  rw [hp.scannedText_eq] at hr
  obtain ⟨q, hq, rfl⟩ := List.mem_map.1 hr
  obtain ⟨i, hi, rfl⟩ := List.mem_take_iff_getElem.1 hq
  exact h _ (by simp [Fin.le_def]; omega)

/-- DEC of a text of 26 characters reports the first invalid one (R87). -/
theorem FirstInvalid.decoded_eq {s : State} {p : Fin 26} (hp : FirstInvalid s p) (h : s.txtLen = 26) :
    s.decoded = s.setStatus (.invalidCharacter s.txt[p] (BitVec.ofNat 3 (p.val % 8))) :=
  State.decoded_of_scan_error h (scanFrom_eq_error_iff.2
    ⟨p.val, (Nat.zero_add _).symm, by simp, hp.1, State.forall_getElem?_toList_txt hp.2⟩)

/-- Issuing DEC with its operands written. -/
theorem modelPerform_dec_eq_next {s : State} (h : Prepared .dec s) :
    modelPerform (.issue 0x02) s = .next s.decoded :=
  modelPerform_eq_next_iff.2 ⟨h, rfl⟩

/-- Issuing DEC faults at the first unwritten register of its read order. -/
theorem modelPerform_dec_eq_modelFault {s : State} {r : PortReg}
    (h : s.firstUnwritten (operands .dec s) = some r) : modelPerform (.issue 0x02) s = .modelFault r :=
  modelPerform_eq_modelFault_iff.2 h

theorem firstUnwritten_operands_dec_of_length_eq {s : State} (hw : s.isWritten .txtLen = true)
    (h : s.txtLen = 26) : s.firstUnwritten (operands .dec s) = s.firstUnwritten s.scannedText := by
  rw [operands_dec_of_length_eq h, State.firstUnwritten_cons, if_pos hw]

/-- Settles O24: DEC reads `TXT_LEN`, then, only if that is 26, the text as far as the scan goes. -/
theorem decReadsNoFurtherThanItMust : Obligations.DecReadsNoFurtherThanItMust := by
  intro s
  refine ⟨fun hw => ?_, fun hw hlen => ?_, fun p hw hlen hp hbefore => ?_, fun p hw hlen hp hread => ?_⟩
  · exact modelPerform_dec_eq_modelFault (firstUnwritten_operands_dec_of_unwritten_length hw)
  · have hprep : Prepared .dec s := by
      rw [Prepared, operands_dec_of_length_ne hlen, State.firstUnwritten_cons]
      exact if_pos hw
    refine ⟨_, modelPerform_dec_eq_next hprep, ?_⟩
    rw [State.decoded_of_length_ne hlen]
    exact kindOf_statusWord ..
  · refine modelPerform_dec_eq_modelFault ?_
    rw [firstUnwritten_operands_dec_of_length_eq hw hlen]
    exact firstUnwritten_scannedText_eq_some hp (fun q hq => (hbefore q hq).1) fun q hq => (hbefore q hq).2
  · have hprep : Prepared .dec s := by
      rw [Prepared, firstUnwritten_operands_dec_of_length_eq hw hlen]
      exact State.firstUnwritten_eq_none_iff.2 (hp.forall_scannedText hread)
    refine ⟨_, modelPerform_dec_eq_next hprep, ?_⟩
    rw [hp.decoded_eq hlen]
    exact ⟨kindOf_statusWord .., charOf_statusWord ..⟩

/-! ### Runs of the spec's model -/

theorem runInputs_cons_eq_next_iff {x : PortInput} {xs : List PortInput} {s t : State} :
    runInputs (x :: xs) s = .next t ↔ ∃ u, perform x s = .next u ∧ runInputs xs u = .next t := by
  rw [runInputs]
  cases perform x s <;> simp

theorem modelRun_cons_of_next {x : PortInput} {s u : State} (h : modelPerform x s = .next u)
    (xs : List PortInput) : modelRun (x :: xs) s = modelRun xs u := by
  rw [modelRun, h]

theorem modelRun_cons_of_modelFault {x : PortInput} {s : State} {r : PortReg}
    (h : modelPerform x s = .modelFault r) (xs : List PortInput) :
    modelRun (x :: xs) s = .modelFault r := by
  rw [modelRun, h]

theorem modelRun_cons_eq_next_iff {x : PortInput} {xs : List PortInput} {s t : State} :
    modelRun (x :: xs) s = .next t ↔ ∃ u, modelPerform x s = .next u ∧ modelRun xs u = .next t := by
  rw [modelRun]
  cases modelPerform x s <;> simp

/-- A run faults at its first input, or after it. -/
theorem modelRun_cons_eq_modelFault_iff {x : PortInput} {xs : List PortInput} {s : State} {r : PortReg} :
    modelRun (x :: xs) s = .modelFault r ↔
      modelPerform x s = .modelFault r ∨
        ∃ u, modelPerform x s = .next u ∧ modelRun xs u = .modelFault r := by
  rw [modelRun]
  cases modelPerform x s <;> simp

theorem modelRun_singleton (x : PortInput) (s : State) : modelRun [x] s = modelPerform x s := by
  rw [modelRun]
  cases modelPerform x s <;> rfl

/-- Where the model's run reaches a state, the block's run reaches the same. -/
theorem runInputs_eq_next_of_modelRun {xs : List PortInput} {s t : State} (h : modelRun xs s = .next t) :
    runInputs xs s = .next t := by
  induction xs generalizing s with
  | nil => exact congrArg _ (ModelOutcome.next.inj h)
  | cons x xs ih =>
    obtain ⟨u, hx, hxs⟩ := modelRun_cons_eq_next_iff.1 h
    exact runInputs_cons_eq_next_iff.2 ⟨u, (modelPerform_eq_next_iff.1 hx).2, ih hxs⟩

/-- Where the model's run reaches a state, further inputs go on from there. -/
theorem modelRun_append_of_next {xs : List PortInput} {s t : State} (h : modelRun xs s = .next t)
    (ys : List PortInput) : modelRun (xs ++ ys) s = modelRun ys t := by
  induction xs generalizing s with
  | nil => exact congrArg _ (ModelOutcome.next.inj h)
  | cons x xs ih =>
    obtain ⟨u, hx, hxs⟩ := modelRun_cons_eq_next_iff.1 h
    rw [List.cons_append, modelRun_cons_of_next hx, ih hxs]

/-- A model fault ends the run: further inputs change nothing of it (R111). -/
theorem modelRun_append_of_modelFault {xs : List PortInput} {s : State} {r : PortReg}
    (h : modelRun xs s = .modelFault r) (ys : List PortInput) :
    modelRun (xs ++ ys) s = .modelFault r := by
  induction xs generalizing s with
  | nil => cases h
  | cons x xs ih =>
    obtain hx | ⟨u, hx, hxs⟩ := modelRun_cons_eq_modelFault_iff.1 h
    · exact modelRun_cons_of_modelFault hx _
    · rw [List.cons_append, modelRun_cons_of_next hx, ih hxs]

/-- A run that faults reaches the state in which the next input reads the unwritten register. -/
theorem exists_faulting_input_of_modelRun {xs : List PortInput} {s : State} {r : PortReg}
    (h : modelRun xs s = .modelFault r) :
    ∃ pre x post u, xs = pre ++ x :: post ∧ modelRun pre s = .next u ∧
      u.firstUnwritten (registersRead x u) = some r := by
  induction xs generalizing s with
  | nil => cases h
  | cons x xs ih =>
    obtain hx | ⟨u, hx, hxs⟩ := modelRun_cons_eq_modelFault_iff.1 h
    · exact ⟨[], x, xs, s, rfl, rfl, modelPerform_eq_modelFault_iff.1 hx⟩
    · obtain ⟨pre, y, post, v, rfl, hpre, hv⟩ := ih hxs
      exact ⟨x :: pre, y, post, v, rfl, (modelRun_cons_of_next hx pre).trans hpre, hv⟩

/-- Where the block's run reaches a state, the model's run reaches it too or faults before. -/
theorem modelRun_of_runInputs_eq_next {xs : List PortInput} {s t : State}
    (h : runInputs xs s = .next t) : modelRun xs s = .next t ∨ ∃ r, modelRun xs s = .modelFault r := by
  induction xs generalizing s with
  | nil => exact .inl (congrArg _ (Host.Outcome.next.inj h))
  | cons x xs ih =>
    obtain ⟨u, hx, hxs⟩ := runInputs_cons_eq_next_iff.1 h
    cases hp : s.firstUnwritten (registersRead x s) with
    | some r => exact .inr ⟨r, modelRun_cons_of_modelFault (modelPerform_eq_modelFault_iff.2 hp) xs⟩
    | none =>
      rw [modelRun_cons_of_next (modelPerform_eq_next_iff.2 ⟨hp, hx⟩)]
      exact ih hxs

/-- Settles O60, by the laws of runs above. -/
theorem modelRunFollowsTheBlock : Obligations.ModelRunFollowsTheBlock := by
  refine ⟨fun _ => rfl, modelRun_singleton, fun _ _ _ => modelPerform_eq_modelFault_iff, fun xs ys s =>
    ⟨fun t h => ?_, fun r h => ?_, fun t h => modelRun_of_runInputs_eq_next h⟩⟩
  · exact ⟨runInputs_eq_next_of_modelRun h, modelRun_append_of_next h ys⟩
  · obtain ⟨pre, x, post, u, hxs, hpre, hu⟩ := exists_faulting_input_of_modelRun h
    exact ⟨modelRun_append_of_modelFault h ys, pre, x, post, u, hxs, hpre,
      runInputs_eq_next_of_modelRun hpre, hu⟩

/-! ### `STATUS`, `ERR_FOUND` and reset -/

/-- After reset no data register counts as written (R33). -/
theorem isWritten_resetWith {r : PortReg} (hst : r ≠ .status) (hef : r ≠ .errFound) (p : Config.Params) :
    (State.resetWith p).isWritten r = false := by
  cases r with
  | status => exact absurd rfl hst
  | errFound => exact absurd rfl hef
  | txt i => simp [State.isWritten, State.resetWith, Written.none]
  | slice i => simp [State.isWritten, State.resetWith, Written.none]
  | _ => rfl

theorem isWritten_afterReset (s : State) (r : PortReg) :
    s.afterReset.isWritten r = (State.resetWith s.params).isWritten r :=
  State.isWritten_congr rfl r

/-- Settles O12: the reset input and power-on leave the same written bits. -/
theorem resetClearsStatusAndWrittenBits : Obligations.ResetClearsStatusAndWrittenBits := by
  refine ⟨fun s => ⟨s.afterReset, rfl, rfl, rfl, rfl, fun r hst hef => ?_⟩,
    fun p => ⟨rfl, rfl, fun r hst hef => isWritten_resetWith hst hef p⟩⟩
  rw [isWritten_afterReset, isWritten_resetWith hst hef]

/-- The status write overwrites whatever `STATUS` and `ERR_FOUND` held (R28). -/
theorem State.setStatus_overwrites (s : State) (x : BitVec 32) (n : Nat) (k : CommandStatus) :
    { s with status := x, errFound := n }.setStatus k = s.setStatus k :=
  rfl

/-- No command reads `STATUS` or `ERR_FOUND`, and each overwrites both. -/
theorem State.after_overwrites (i : Instr) (s : State) (x : BitVec 32) (n : Nat) :
    State.after i { s with status := x, errFound := n } = s.after i := by
  cases i with
  | dec =>
    change State.decoded _ = s.decoded
    rw [State.decoded, State.decoded]
    cases scanFrom s.params.oAlias 0 s.txt.toList <;> rfl
  | _ => rfl

/-- Settles O19: a legal word does what its command does, a reserved one records itself. -/
theorem commandOverwritesTheStatus : Obligations.CommandOverwritesTheStatus := by
  intro w s t x n ht
  change issue w s = .next t at ht
  change issue w { s with status := x, errFound := n } = .next t
  rw [← ht]
  cases hw : decode w with
  | ok i => rw [issue_of_decode_eq_ok hw, issue_of_decode_eq_ok hw, State.after_overwrites]
  | error e => rw [issue_of_decode_eq_error hw, issue_of_decode_eq_error hw, State.setStatus_overwrites]

/-- Settles O16: the invariant gives one outcome that both registers record, and each outcome has these
fields. -/
theorem statusFieldsAreLegal : Obligations.StatusFieldsAreLegal := by
  intro s h
  obtain ⟨hparams, -, -, k, hk, hstatus, hfound⟩ := h
  rw [hstatus, hfound]
  have hwidth := two_pow_eight_le_of_wellFormed hparams
  cases k with
  | ok => simp [CommandStatus.word, CommandStatus.found]
  | invalidLength n =>
    obtain ⟨hne, hlt⟩ := hk
    simp [CommandStatus.word, CommandStatus.found, hne, hlt]
  | invalidCharacter c i => simp [CommandStatus.word, CommandStatus.found]
  | bytesError n =>
    obtain ⟨hne, hlt⟩ := hk
    simp [CommandStatus.word, CommandStatus.found, hne, hlt]
  | illegalCommand w =>
    have hlt : w.toNat < 2 ^ s.params.lenWidth := Nat.lt_of_lt_of_le w.isLt hwidth
    have hreserved : ∀ i, decode w ≠ .ok i := hk
    simp [CommandStatus.word, CommandStatus.found, hlt, hreserved, w.isLt]

end Sys2Proof.Machine
end

section
/-! Runs and steps, the host port's writes and reads, and the frame of every command (family 20_memory.md). -/

namespace Sys2Proof.Machine

/-! ### Steps and runs -/

/-- With inputs presented, a step performs the first on the state that holds the rest (R44). -/
theorem step_of_port_eq_cons {s : State} {x : PortInput} {rest : List PortInput} (h : s.port = x :: rest) :
    step s = perform x { s with port := rest } := by
  rw [step, nextInput, h]

/-- Settles O6: a step looks at the list of inputs alone to choose what to perform. -/
theorem stepTakesTheNextInput : Obligations.StepTakesTheNextInput := by
  refine ⟨fun s h => ?_, fun s x rest h => step_of_port_eq_cons h⟩
  rw [step, nextInput, h]

/-- A table word of a command decodes to it. -/
theorem decode_of_decodeTableWord_eq_some {nbits w : Nat} {i : Instr}
    (h : decodeTableWord nbits w = some i) : decode (BitVec.ofNat 8 w) = .ok i := by
  unfold decodeTableWord at h
  split at h
  · cases hd : decode (BitVec.ofNat 8 w) with
    | ok j =>
      rw [hd] at h
      exact congrArg _ (Option.some.inj h)
    | error e =>
      rw [hd] at h
      cases h
  · cases h

/-- Settles O5: the step issues the word, and a word that decodes runs its command. -/
theorem stepRunsDecodedCommand : Obligations.StepRunsDecodedCommand := by
  refine ⟨fun s w rest i _ hport hw => ?_, fun s w i hw => ?_⟩
  · rw [step_of_port_eq_cons hport, exec_eq_next]
    exact issue_of_decode_eq_ok hw _
  · rw [exec_eq_next]
    exact issue_of_decode_eq_ok (decode_of_decodeTableWord_eq_some hw) s

theorem runInputs_singleton (x : PortInput) (s : State) : runInputs [x] s = perform x s := by
  rw [runInputs]
  cases perform x s <;> rfl

theorem runInputs_cons_of_refused {x : PortInput} {s : State} {r : Refusal} (h : perform x s = .refused r)
    (xs : List PortInput) : runInputs (x :: xs) s = .refused r := by
  rw [runInputs, h]

/-- A run is refused at its first input, or after it. -/
theorem runInputs_cons_eq_refused_iff {x : PortInput} {xs : List PortInput} {s : State} {r : Refusal} :
    runInputs (x :: xs) s = .refused r ↔
      perform x s = .refused r ∨ ∃ u, perform x s = .next u ∧ runInputs xs u = .refused r := by
  rw [runInputs]
  cases perform x s <;> simp

/-- Where a run reaches a state, further inputs go on from there (R44). -/
theorem runInputs_append_of_next {xs : List PortInput} {s t : State} (h : runInputs xs s = .next t)
    (ys : List PortInput) : runInputs (xs ++ ys) s = runInputs ys t := by
  induction xs generalizing s with
  | nil => exact congrArg _ (Host.Outcome.next.inj h)
  | cons x xs ih =>
    obtain ⟨u, hx, hxs⟩ := runInputs_cons_eq_next_iff.1 h
    rw [List.cons_append, runInputs_cons_of_next hx, ih hxs]

/-- A refused input ends the run: further inputs change nothing of it (log entry 8). -/
theorem runInputs_append_of_refused {xs : List PortInput} {s : State} {r : Refusal}
    (h : runInputs xs s = .refused r) (ys : List PortInput) : runInputs (xs ++ ys) s = .refused r := by
  induction xs generalizing s with
  | nil => cases h
  | cons x xs ih =>
    obtain hx | ⟨u, hx, hxs⟩ := runInputs_cons_eq_refused_iff.1 h
    · exact runInputs_cons_of_refused hx _
    · rw [List.cons_append, runInputs_cons_of_next hx, ih hxs]

/-- Settles O7, by the laws of runs above. -/
theorem runPerformsInputsInOrder : Obligations.RunPerformsInputsInOrder :=
  ⟨fun _ => rfl, runInputs_singleton, fun _ ys _ =>
    ⟨fun _ h => runInputs_append_of_next h ys, fun _ h => runInputs_append_of_refused h ys⟩⟩

/-! ### No input touches the inputs still presented -/

theorem State.hostWrite_withPort (s : State) (v : PortValue) (q : List PortInput) :
    { s with port := q }.hostWrite v = { s.hostWrite v with port := q } := by
  cases v <;> rfl

theorem State.after_withPort (i : Instr) (s : State) (q : List PortInput) :
    State.after i { s with port := q } = { s.after i with port := q } := by
  cases i with
  | dec =>
    change State.decoded _ = { s.decoded with port := q }
    obtain h | h := eq_or_ne s.txtLen 26
    · cases hs : scanFrom s.params.oAlias 0 s.txt.toList with
      | error e =>
        rw [State.decoded_of_scan_error h hs]
        exact State.decoded_of_scan_error h hs
      | ok val =>
        rw [State.decoded_of_scan_ok h hs]
        exact State.decoded_of_scan_ok h hs
    · rw [State.decoded_of_length_ne h]
      exact State.decoded_of_length_ne h
  | fromSlice =>
    change State.fromSlice _ = { s.fromSlice with port := q }
    obtain h | h := eq_or_ne s.sliceLen 16
    · rw [State.fromSlice_of_length_eq h]
      exact State.fromSlice_of_length_eq h
    · rw [State.fromSlice_of_length_ne h]
      exact State.fromSlice_of_length_ne h
  | _ => rfl

/-- The inputs still to come change nothing of what an input does, and stay. -/
theorem perform_withPort_of_next {x : PortInput} {s t : State} (h : perform x s = .next t)
    (q : List PortInput) : perform x { s with port := q } = .next { t with port := q } := by
  cases x with
  | write v =>
    obtain ⟨hv, rfl⟩ := perform_write_eq_next_iff.1 h
    exact perform_write_eq_next_iff.2 ⟨hv, (s.hostWrite_withPort v q).symm⟩
  | read | reset =>
    obtain rfl := Host.Outcome.next.inj h
    rfl
  | issue w =>
    change issue w _ = _
    cases hw : decode w with
    | ok i =>
      obtain rfl := Host.Outcome.next.inj ((issue_of_decode_eq_ok hw s).symm.trans h)
      rw [issue_of_decode_eq_ok hw, State.after_withPort]
    | error e =>
      obtain rfl := Host.Outcome.next.inj ((issue_of_decode_eq_error hw s).symm.trans h)
      exact issue_of_decode_eq_error hw _

/-- A written value that does not fit its register is refused by name (R38, log entry 8). -/
theorem perform_write_of_not_fits {v : PortValue} {s : State} (hv : v.fits s.params = false) :
    perform (.write v) s = .refused (.valueTooWide v.reg) := by
  simp [perform, hv]

/-- No command word is refused. -/
theorem issue_ne_refused (w : BitVec 8) (s : State) (r : Refusal) : issue w s ≠ .refused r := by
  cases hw : decode w with
  | ok i => simp [issue_of_decode_eq_ok hw]
  | error e => simp [issue_of_decode_eq_error hw]

/-- The one input that is refused is a write of a value too wide for its register (log entry 8). -/
theorem exists_write_of_perform_eq_refused {x : PortInput} {s : State} {r : Refusal}
    (h : perform x s = .refused r) :
    ∃ v, x = .write v ∧ v.fits s.params = false ∧ r = .valueTooWide v.reg := by
  cases x with
  | write v =>
    cases hv : v.fits s.params with
    | true => cases (perform_write_eq_next_iff.2 ⟨hv, rfl⟩).symm.trans h
    | false =>
      exact ⟨v, rfl, hv, Host.Outcome.refused.inj (h.symm.trans (perform_write_of_not_fits hv))⟩
  | read | reset => cases h
  | issue w => exact absurd h (issue_ne_refused w s r)

/-- Whether an input is refused depends on the parameters, not on the inputs still to come. -/
theorem perform_withPort_of_refused {x : PortInput} {s : State} {r : Refusal}
    (h : perform x s = .refused r) (q : List PortInput) : perform x { s with port := q } = .refused r := by
  obtain ⟨v, rfl, hv, rfl⟩ := exists_write_of_perform_eq_refused h
  exact perform_write_of_not_fits hv

/-! ### The host's run of a machine -/

theorem core_run_succ_of_next {M : Host.Core} {s t : M.State} (h : M.step s = .next t) (n : Nat) :
    M.run (n + 1) s = M.run n t := by
  rw [Host.Core.run, h]

theorem core_run_succ_of_refused {M : Host.Core} {s : M.State} {r : M.Refusal} (h : M.step s = .refused r)
    (n : Nat) : M.run (n + 1) s = .refused r := by
  rw [Host.Core.run, h]

/-- Settles O8, by induction on the inputs: one step does to the state that presents them what its input
does to the state that presents the rest, and leaves the others presented. -/
theorem stepsAreTheRun : Obligations.StepsAreTheRun := by
  intro xs rest s
  induction xs generalizing s with
  | nil => rfl
  | cons x xs ih =>
    cases hx : perform x s with
    | next t =>
      have hstep : Sys2Proof.core.step { s with port := x :: xs ++ rest } =
          .next { t with port := xs ++ rest } := perform_withPort_of_next hx _
      rw [runInputs_cons_of_next (perform_withPort_of_next hx rest), ← ih t]
      exact core_run_succ_of_next hstep xs.length
    | refused r =>
      have hstep : Sys2Proof.core.step { s with port := x :: xs ++ rest } = .refused r :=
        perform_withPort_of_refused hx _
      rw [runInputs_cons_of_refused (perform_withPort_of_refused hx rest)]
      exact core_run_succ_of_refused hstep xs.length
    | fault f => cases f

/-! ### Host writes and host reads -/

/-- A host write sets the written bit of the register it names (R32, R38). -/
theorem State.isWritten_hostWrite_reg (s : State) (v : PortValue) :
    (s.hostWrite v).isWritten v.reg = true := by
  cases v with
  | txt i x => simp [State.hostWrite, State.isWritten, PortValue.reg]
  | slice i x => simp [State.hostWrite, State.isWritten, PortValue.reg]
  | _ => rfl

/-- `STATUS` takes no host write (R29). -/
@[simp] theorem State.hostWrite_status (s : State) (v : PortValue) : (s.hostWrite v).status = s.status := by
  cases v <;> rfl

/-- `ERR_FOUND` takes no host write (R29). -/
@[simp] theorem State.hostWrite_errFound (s : State) (v : PortValue) :
    (s.hostWrite v).errFound = s.errFound := by
  cases v <;> rfl

theorem onlyChanges_hostWrite (s : State) (v : PortValue) : OnlyChanges [v.reg] s (s.hostWrite v) :=
  ⟨s.hostWrite_params v, s.hostWrite_port v, s.hostWrite_reads v,
    fun _ hr _ _ => s.hostWrite_of_ne (List.ne_of_not_mem_cons hr)⟩

/-- Settles O9, by what a host write leaves in its register and in the others. -/
theorem hostWriteReplacesOneRegister : Obligations.HostWriteReplacesOneRegister := by
  refine fun s v => ⟨fun hv hst hef => ⟨s.hostWrite v, perform_write_eq_next_iff.2 ⟨hv, rfl⟩,
    State.read_hostWrite_reg hst hef s, s.isWritten_hostWrite_reg v, s.hostWrite_status v,
    s.hostWrite_errFound v, onlyChanges_hostWrite s v⟩, fun hv hreg => ?_, perform_write_of_not_fits⟩
  exact perform_write_eq_next_iff.2 ⟨hv, (State.hostWrite_of_ignored hreg s).symm⟩

/-- A host read records the value and does nothing else, so the next one finds the same value (R39). -/
theorem State.read_recordRead (s : State) (v : PortValue) (r : PortReg) :
    (s.recordRead v).read r = s.read r := by
  cases r <;> rfl

/-- Settles O10: the second read finds the value of the first. -/
theorem hostReadChangesNothing : Obligations.HostReadChangesNothing := by
  refine fun s r => ⟨rfl, ?_⟩
  rw [runInputs_cons_of_next (t := s.recordRead (s.read r)) rfl, runInputs_singleton, perform,
    State.read_recordRead]
  simp [State.recordRead]

/-! ### What a command leaves alone -/

theorem OnlyChanges.refl (rs : List PortReg) (s : State) : OnlyChanges rs s s :=
  ⟨rfl, rfl, rfl, fun _ _ _ _ => ⟨rfl, rfl⟩⟩

theorem OnlyChanges.mono {rs rs' : List PortReg} {s t : State} (h : OnlyChanges rs s t) (hrs : rs ⊆ rs') :
    OnlyChanges rs' s t := by
  obtain ⟨hparams, hport, hreads, hregs⟩ := h
  exact ⟨hparams, hport, hreads, fun r hr => hregs r fun hmem => hr (hrs hmem)⟩

theorem OnlyChanges.trans {rs rs' : List PortReg} {s t u : State} (h : OnlyChanges rs s t)
    (h' : OnlyChanges rs' t u) : OnlyChanges (rs ++ rs') s u := by
  obtain ⟨hparams, hport, hreads, hregs⟩ := h
  obtain ⟨hparams', hport', hreads', hregs'⟩ := h'
  refine ⟨hparams'.trans hparams, hport'.trans hport, hreads'.trans hreads, fun r hr hst hef => ?_⟩
  obtain ⟨hr, hr'⟩ := not_or.1 (mt List.mem_append.2 hr)
  obtain ⟨hread, hbit⟩ := hregs r hr hst hef
  obtain ⟨hread', hbit'⟩ := hregs' r hr' hst hef
  exact ⟨hread'.trans hread, hbit'.trans hbit⟩

theorem onlyChanges_hostWrites (s : State) (vs : List PortValue) :
    OnlyChanges (vs.map PortValue.reg) s (s.hostWrites vs) := by
  induction vs generalizing s with
  | nil => exact .refl _ s
  | cons v vs ih => exact (onlyChanges_hostWrite s v).trans (ih (s.hostWrite v))

/-- A command changes only its results: it is host writes to them, or none, and an outcome (R50, R55). -/
theorem onlyChanges_of_exec_eq_next {i : Instr} {s t : State} (h : exec i s = .next t) :
    OnlyChanges (results i) s t := by
  obtain rfl := Host.Outcome.next.inj ((exec_eq_next i s).symm.trans h)
  obtain ⟨vs, k, hs, -, hvs⟩ := exists_writesAlike (i := i) (s := s) (t := s) ⟨rfl, fun _ _ => rfl⟩
  have hframe : OnlyChanges (vs.map PortValue.reg) s (s.after i) := by
    simpa [hs] using (onlyChanges_hostWrites s vs).trans (onlyChanges_setStatus _ k)
  obtain rfl | hvs := hvs
  · exact hframe.mono (List.nil_subset _)
  · exact hvs ▸ hframe

/-- Settles O17: the lists of the statement are the column `writes` of R55. -/
theorem commandFrame : Obligations.CommandFrame := fun _ _ =>
  ⟨onlyChanges_of_exec_eq_next (i := .encL), onlyChanges_of_exec_eq_next (i := .encU),
    onlyChanges_of_exec_eq_next (i := .dec), onlyChanges_of_exec_eq_next (i := .pack),
    onlyChanges_of_exec_eq_next (i := .millis), onlyChanges_of_exec_eq_next (i := .packF),
    onlyChanges_of_exec_eq_next (i := .unpackF), onlyChanges_of_exec_eq_next (i := .fromInt),
    onlyChanges_of_exec_eq_next (i := .toInt), onlyChanges_of_exec_eq_next (i := .fromSlice)⟩

theorem kindOf_word_ok : kindOf CommandStatus.ok.word = 0 := kindOf_statusWord ..

/-- A command ends in the outcome OK, or its status write is all it does (R43, R95). -/
theorem State.after_cases (i : Instr) (s : State) :
    (s.after i).status = CommandStatus.ok.word ∨ ∃ k, s.after i = s.setStatus k := by
  cases i with
  | dec =>
    obtain ⟨-, heq⟩ | ⟨-, p, -, -, heq⟩ | ⟨-, val, -, heq⟩ := s.decoded_cases
    · exact .inr ⟨_, heq⟩
    · exact .inr ⟨_, heq⟩
    · exact .inl (congrArg State.status heq)
  | fromSlice =>
    obtain ⟨-, heq⟩ | ⟨-, heq⟩ := s.fromSlice_cases
    · exact .inr ⟨_, heq⟩
    · exact .inl (congrArg State.status heq)
  | _ => exact .inl rfl

/-- Settles O20: where the outcome is not OK, the command was its status write alone. -/
theorem failedCommandChangesOnlyTheStatus : Obligations.FailedCommandChangesOnlyTheStatus := by
  intro i s t ht hkind
  obtain rfl := Host.Outcome.next.inj ((exec_eq_next i s).symm.trans ht)
  obtain hok | ⟨k, hk⟩ := State.after_cases i s
  · exact absurd (hok ▸ kindOf_word_ok) hkind
  · exact hk ▸ onlyChanges_setStatus s k

/-- PACK writes neither of its operands, so a second one packs the same Identifier (R118). -/
theorem State.after_pack_after_pack (s : State) : (s.after .pack).after .pack = s.after .pack := rfl

/-- Settles O54: the second PACK leaves what the first left. -/
theorem packKeepsItsOperands : Obligations.PackKeepsItsOperands := by
  refine fun s _ => ⟨s.after .pack, exec_eq_next .pack s, ?_, rfl, rfl⟩
  rw [exec_eq_next, State.after_pack_after_pack]

end Sys2Proof.Machine
end

section
/-! The command word, read orders and the host assembly (family 30_encoding.md). -/

namespace Sys2Proof.Machine

/-! ### The command word -/

/-- A word is its three fields put together (R51). -/
theorem commandWord_fields (w : BitVec 8) : commandWord (rsvField w) (caseField w) (opField w) = w := by
  revert w
  decide

/-- The operations other than the encoder stand in the opcode map with `CASE` 0 (R56). -/
theorem encode_of_packerOrDecoder {op : BitVec 4} {i : Instr} (h : packerOrDecoder op = .ok i) :
    encode i = commandWord 0 0 op := by
  unfold packerOrDecoder at h
  split_ifs at h <;> cases h <;> subst op <;> rfl

/-- `OP` 2 to 9 selects an operation (R52). -/
theorem toNat_of_packerOrDecoder_eq_error {op : BitVec 4} {e : ReservedWord}
    (h : packerOrDecoder op = .error e) : op.toNat < 2 ∨ 9 < op.toNat := by
  unfold packerOrDecoder at h
  split_ifs at h
  bv_omega

theorem decode_encode (i : Instr) : decode (encode i) = .ok i := by
  cases i <;> rfl

/-- A word that decodes to a command is the command's word: the fields that select the command are all of
the word (R56, R57). -/
theorem eq_encode_of_decode_eq_ok {w : BitVec 8} {i : Instr} (h : decode w = .ok i) : w = encode i := by
  rw [← commandWord_fields w]
  unfold decode at h
  split_ifs at h with hrsv _ hop hcase _ hcase
  · obtain rfl := Except.ok.inj h
    rw [not_not.1 hrsv, hop, hcase]
    rfl
  · obtain rfl := Except.ok.inj h
    rw [not_not.1 hrsv, hop, (BitVec.eq_zero_or_eq_one _).resolve_left hcase]
    rfl
  · rw [not_not.1 hrsv, (BitVec.eq_zero_or_eq_one _).resolve_right hcase, encode_of_packerOrDecoder h]
    rfl

theorem decode_eq_ok_iff {w : BitVec 8} {i : Instr} : decode w = .ok i ↔ w = encode i :=
  ⟨eq_encode_of_decode_eq_ok, fun h => h ▸ decode_encode i⟩

/-- Settles O2, by the two directions of `decode_eq_ok_iff`. -/
theorem decodeOfEncode : Obligations.DecodeOfEncode := fun i _ =>
  ⟨decode_encode i, fun _ => eq_encode_of_decode_eq_ok⟩

/-- The fields of a command's word meet the condition of R57. -/
theorem legalFields_encode (i : Instr) : rsvField (encode i) = 0 ∧
    ((2 ≤ (opField (encode i)).toNat ∧ (opField (encode i)).toNat ≤ 9 ∧ caseField (encode i) = 0) ∨
      opField (encode i) = 1) := by
  cases i <;> decide

/-- A word whose fields meet the condition of R57 is legal. -/
theorem exists_decode_eq_ok_of_fields {w : BitVec 8} (hrsv : rsvField w = 0)
    (hop : (2 ≤ (opField w).toNat ∧ (opField w).toNat ≤ 9 ∧ caseField w = 0) ∨ opField w = 1) :
    ∃ i, decode w = .ok i := by
  obtain ⟨h2, h9, hcase⟩ | hop := hop
  · have h0 : opField w ≠ 0 := by bv_omega
    have h1 : opField w ≠ 1 := by bv_omega
    have hdec : decode w = packerOrDecoder (opField w) := by
      rw [decode, if_neg (not_not.2 hrsv), if_neg h0, if_neg h1, if_neg (Nat.not_lt.2 h9),
        if_neg (by simp [hcase])]
    rw [hdec]
    cases h : packerOrDecoder (opField w) with
    | ok i => exact ⟨i, rfl⟩
    | error e =>
      have hrange := toNat_of_packerOrDecoder_eq_error h
      omega
  · exact ⟨_, by rw [decode, if_neg (not_not.2 hrsv), if_neg (by simp [hop]), if_pos hop]⟩

/-- Settles O1: the list of the statement pairs each command with its word. -/
theorem commandWordsDecode : Obligations.CommandWordsDecode := by
  refine ⟨fun w i => decode_eq_ok_iff.trans ?_, fun w => ⟨?_, fun ⟨hrsv, hop⟩ =>
    exists_decode_eq_ok_of_fields hrsv hop⟩⟩
  · cases i <;> simp [encode, commandWord]
  · rintro ⟨i, h⟩
    exact eq_encode_of_decode_eq_ok h ▸ legalFields_encode i

/-- The words whose `RSV` is 0 (R51). -/
def wordsWithoutRsv : List (BitVec 8) := (List.range 32).map (BitVec.ofNat 8)

/-- The words whose `RSV` is not 0 (R54). -/
def wordsWithRsv : List (BitVec 8) := (List.range' 32 224).map (BitVec.ofNat 8)

/-- All 256 words, those whose `RSV` is 0 first. -/
theorem words_eq_append :
    (List.range 256).map (BitVec.ofNat 8) = wordsWithoutRsv ++ wordsWithRsv := by
  rw [wordsWithoutRsv, wordsWithRsv, ← List.map_append, List.range_eq_range', List.range_eq_range',
    List.range'_append]

theorem rsvField_of_mem_wordsWithoutRsv {w : BitVec 8} (h : w ∈ wordsWithoutRsv) : rsvField w = 0 := by
  revert w
  decide

theorem rsvField_of_mem_wordsWithRsv {w : BitVec 8} (h : w ∈ wordsWithRsv) : rsvField w ≠ 0 := by
  obtain ⟨n, hn, rfl⟩ := List.mem_map.1 h
  rw [List.mem_range'_1] at hn
  have hfield : (rsvField (BitVec.ofNat 8 n)).toNat = n / 32 := by
    rw [rsvField, BitVec.extractLsb'_toNat, BitVec.toNat_ofNat, Nat.shiftRight_eq_div_pow]
    omega
  intro h0
  rw [h0] at hfield
  change 0 = n / 32 at hfield
  omega

/-- The word decodes to no command (R58). -/
def isReserved (w : BitVec 8) : Bool :=
  match decode w with
  | .ok _ => false
  | .error _ => true

/-- A word whose `RSV` is not 0 is reserved, whatever its other fields (R54). -/
theorem isReserved_of_rsvField_ne_zero {w : BitVec 8} (h : rsvField w ≠ 0) : isReserved w = true := by
  rw [isReserved, decode, if_pos h]

/-- The reserved words of all 256 (R58). -/
def reservedWords : List (BitVec 8) := ((List.range 256).map (BitVec.ofNat 8)).filter isReserved

/-- Those without `RSV` need a look at `OP` and `CASE`, and the others are all reserved. -/
theorem reservedWords_eq_append : reservedWords = wordsWithoutRsv.filter isReserved ++ wordsWithRsv := by
  rw [reservedWords, words_eq_append, List.filter_append, List.filter_eq_self.2 fun w hw =>
    isReserved_of_rsvField_ne_zero (rsvField_of_mem_wordsWithRsv hw)]

theorem reservedWords_filter_rsvField_eq_zero :
    reservedWords.filter (fun w => rsvField w = 0) = wordsWithoutRsv.filter isReserved := by
  have hwithout : ∀ w ∈ wordsWithoutRsv.filter isReserved, decide (rsvField w = 0) = true := by
    simpa using fun w hw _ => rsvField_of_mem_wordsWithoutRsv hw
  have hwith : ∀ w ∈ wordsWithRsv, ¬decide (rsvField w = 0) = true := by
    simpa using fun w hw => rsvField_of_mem_wordsWithRsv hw
  rw [reservedWords_eq_append, List.filter_append, List.filter_eq_self.2 hwithout,
    List.filter_eq_nil_iff.2 hwith, List.append_nil]

theorem reservedWords_filter_rsvField_ne_zero :
    reservedWords.filter (fun w => rsvField w ≠ 0) = wordsWithRsv := by
  have hwithout : ∀ w ∈ wordsWithoutRsv.filter isReserved, ¬decide (rsvField w ≠ 0) = true := by
    simpa using fun w hw _ => rsvField_of_mem_wordsWithoutRsv hw
  have hwith : ∀ w ∈ wordsWithRsv, decide (rsvField w ≠ 0) = true := by
    simpa using fun w hw => rsvField_of_mem_wordsWithRsv hw
  rw [reservedWords_eq_append, List.filter_append, List.filter_eq_nil_iff.2 hwithout,
    List.filter_eq_self.2 hwith, List.nil_append]

/-- Settles O3: the 224 words whose `RSV` is not 0 are counted by their number, and the 32 others one by
one. -/
theorem reservedWordsCounted : Obligations.ReservedWordsCounted := by
  change reservedWords.length = 246 ∧ (reservedWords.filter fun w => rsvField w ≠ 0).length = 224 ∧
    (List.filter _ (reservedWords.filter fun w => rsvField w = 0)).length = 2 ∧
    (List.filter _ (reservedWords.filter fun w => rsvField w = 0)).length = 12 ∧
    (List.filter _ (reservedWords.filter fun w => rsvField w = 0)).length = 8
  have hlength : wordsWithRsv.length = 224 := by simp [wordsWithRsv]
  rw [reservedWords_filter_rsvField_eq_zero, reservedWords_filter_rsvField_ne_zero, reservedWords_eq_append,
    List.length_append, hlength]
  exact ⟨rfl, rfl, rfl, rfl, rfl⟩

/-! ### Read orders -/

/-- The positions up to `p` are the first `p + 1`. -/
theorem filter_le_finRange {n : Nat} (p : Fin n) :
    (List.finRange n).filter (· ≤ p) = (List.finRange n).take (p.val + 1) := by
  conv_lhs => rw [← List.take_append_drop (p.val + 1) (List.finRange n)]
  rw [List.filter_append, List.filter_eq_self.2, List.filter_eq_nil_iff.2, List.append_nil]
  · intro i hi
    obtain ⟨j, hj, rfl⟩ := List.mem_drop_iff_getElem.1 hi
    simp only [List.getElem_finRange, Fin.cast_mk, Fin.le_def, decide_eq_true_eq]
    omega
  · intro i hi
    obtain ⟨j, hj, rfl⟩ := List.mem_take_iff_getElem.1 hi
    simp only [List.getElem_finRange, Fin.cast_mk, Fin.le_def, decide_eq_true_eq]
    omega

/-- With every character valid the scan reads all of `TXT` (R85). -/
theorem State.scannedText_of_valid {s : State}
    (h : ∀ p : Fin 26, lookup s.params.oAlias s.txt[p] ≠ none) :
    s.scannedText = (List.finRange 26).map .txt := by
  have hvalid : ∀ c ∈ s.txt.toList, lookup s.params.oAlias c ≠ none := by
    rw [s.toList_txt]
    simpa using h
  rw [s.scannedText_eq, scanLength_of_valid hvalid]
  simp

/-- Settles O22: the two read orders that depend on the state are cases of their lengths and of the scan. -/
theorem operandsFollowTheTable : Obligations.OperandsFollowTheTable := by
  refine fun s => ⟨rfl, rfl, rfl, rfl, rfl, rfl, rfl, rfl, operands_fromSlice_of_length_ne,
    operands_fromSlice_of_length_eq, operands_dec_of_length_ne, fun p hlen hp => ?_, fun hlen hvalid => ?_⟩
  · rw [operands_dec_of_length_eq hlen, hp.scannedText_eq, filter_le_finRange]
  · rw [operands_dec_of_length_eq hlen, State.scannedText_of_valid hvalid]

/-! ### Tokens and numbers -/

/-- A name, mnemonic or number: a nonempty row of word octets. -/
abbrev IsWord (cs : List Byte) : Prop := cs ≠ [] ∧ ∀ c ∈ cs, isWordOctet c = true

theorem isWord_of_digitsValue {base n : Nat} {cs : List Byte} (h : digitsValue base cs = some n) :
    IsWord cs := by
  obtain ⟨hne, hdigits⟩ := digits_of_digitsValue h
  refine ⟨hne, fun c hc => ?_⟩
  obtain ⟨d, hd, -⟩ := hdigits c hc
  exact isWordOctet_of_digitValue hd

/-- A line of two words with a space between them has the two as its tokens (log entry 10). -/
theorem tokens_two_words {kw w : List Byte} (hkw : IsWord kw) (hw : IsWord w) :
    tokens (kw ++ 0x20 :: w) = some [.word kw, .word w] := by
  have hspace : lexOctet ([], .inWord kw.reverse) 0x20 = ([.word kw], .between) := by
    rw [lexOctet, if_neg (by decide), List.reverse_reverse]
    rfl
  have hline : (kw ++ 0x20 :: w).foldl lexOctet ([], .between) = ([.word kw], .inWord w.reverse) := by
    rw [List.foldl_append, foldl_lexOctet_word hkw.1 hkw.2, List.foldl_cons, hspace,
      foldl_lexOctet_word hw.1 hw.2]
  simpa using tokens_of_foldl_inWord hline (.inl rfl)

/-- A row of decimal digits is a decimal literal: its second octet is not the `x` of a hexadecimal one
(R62). -/
theorem numberLiteral_of_decimal {cs : List Byte} {n : Nat} (h : digitsValue 10 cs = some n) :
    numberLiteral cs = some (.decimal false n) := by
  unfold numberLiteral
  split
  · next z x rest =>
    obtain ⟨d, hd, -⟩ := (digits_of_digitsValue h).2 x (by simp)
    have hx : x ≠ 0x78 := by
      rintro rfl
      cases hd
    rw [if_neg fun hzx => hx hzx.2, h]
    rfl
  · rw [h]
    rfl

theorem numberLiteral_of_hexadecimal {cs : List Byte} {n : Nat} (h : digitsValue 16 cs = some n) :
    numberLiteral (0x30 :: 0x78 :: cs) = some (.hexadecimal n) := by
  rw [numberLiteral, if_pos ⟨rfl, rfl⟩, h]
  rfl

/-- A line is its one statement's operations. -/
theorem assembleLine_eq_spell {p : Config.Params} {line : List Byte} {ts : List Token} {st : Statement}
    (hts : tokens line = some ts) (hst : statement ts = some st) : assembleLine p line = spell p st := by
  simp only [assembleLine, hts, hst]

/-! ### Literals -/

/-- An outcome that fits or is refused stays so when its value is carried on. -/
theorem map_ite_ok {ε α β : Type} (f : α → β) (c : Prop) [Decidable c] (a : α) (e : ε) :
    Except.map f (if c then .ok a else .error e) = if c then .ok (f a) else .error e := by
  split <;> rfl

/-- An unsigned literal is read exactly where it fits (R62, R64). -/
theorem unsignedBelow_of_unsignedLiteral {v : Literal} {n : Nat} (h : UnsignedLiteral v n) (bound : Nat) :
    unsignedBelow bound v = if n < bound then .ok n else .error .literalTooWide := by
  rcases h with rfl | rfl <;> rfl

theorem unsignedBits_of_unsignedLiteral {v : Literal} {n : Nat} (h : UnsignedLiteral v n) (width : Nat) :
    unsignedBits width v = if n < 2 ^ width then .ok (BitVec.ofNat width n) else .error .literalTooWide := by
  rw [unsignedBits, unsignedBelow_of_unsignedLiteral h, map_ite_ok]

theorem charLiteral_of_unsignedLiteral {v : Literal} {n : Nat} (h : UnsignedLiteral v n) :
    charLiteral v = unsignedBits 8 v := by
  rcases h with rfl | rfl <;> rfl

/-- `.word` issues the word of its literal, where that is one (R61, R64). -/
theorem spell_word_of_unsignedLiteral (p : Config.Params) {v : Literal} {n : Nat} (h : UnsignedLiteral v n) :
    spell p (.word v) = if n < 256 then .ok [.issue (BitVec.ofNat 8 n)] else .error .literalTooWide := by
  rw [spell, unsignedBits_of_unsignedLiteral h, map_ite_ok]
  rfl

/-! ### Mnemonics -/

/-- A mnemonic in some case names its command (R61). -/
theorem commandNamed_of_map_fold_eq {cs : List Byte} {i : Instr} (h : cs.map fold = mnemonicName i) :
    commandNamed cs = some i := by
  rw [commandNamed, h]
  cases i <;> rfl

theorem commandNamed_eq_none {cs : List Byte} (h : ∀ i, cs.map fold ≠ mnemonicName i) :
    commandNamed cs = none :=
  List.find?_eq_none.2 fun i _ => by simpa using (h i).symm

theorem spell_mnemonic_of_map_fold_eq (p : Config.Params) {cs : List Byte} {i : Instr}
    (h : cs.map fold = mnemonicName i) : spell p (.mnemonic cs) = .ok [.issue (encode i)] := by
  simp only [spell, commandNamed_of_map_fold_eq h]

theorem spell_mnemonic_of_unknown (p : Config.Params) {cs : List Byte}
    (h : ∀ i, cs.map fold ≠ mnemonicName i) : spell p (.mnemonic cs) = .error .unknownMnemonic := by
  simp only [spell, commandNamed_eq_none h]

/-- A mnemonic in some case is a word. -/
theorem isWord_of_map_fold_eq {cs : List Byte} {i : Instr} (h : cs.map fold = mnemonicName i) :
    IsWord cs := by
  have hname : IsWord (mnemonicName i) := by
    cases i <;> decide
  have hfold : ∀ c : Byte, isWordOctet (fold c) = true → isWordOctet c = true := by decide
  obtain ⟨hne, hoctets⟩ := h ▸ hname
  exact ⟨mt (congrArg (List.map fold)) hne, fun c hc => hfold c (hoctets _ (List.mem_map_of_mem hc))⟩

/-- A keyword of R61 or R63 folds to no mnemonic, so a mnemonic in some case is none of them. -/
theorem statement_of_map_fold_eq {cs : List Byte} {i : Instr} (h : cs.map fold = mnemonicName i) :
    statement [.word cs] = some (.mnemonic cs) := by
  have hne : ∀ kw ∈ ["WR", "RD", ".word", "WRSTR", "WRBYTES", "WRSLICE", "RDSTR"], cs ≠ ascii kw := by
    rintro kw hkw rfl
    revert kw
    cases i <;> decide
  simp only [List.forall_mem_cons] at hne
  obtain ⟨hwr, hrd, hword, hwrstr, hwrbytes, hwrslice, hrdstr, -⟩ := hne
  simp [statement, hwr, hrd, hword, hwrstr, hwrbytes, hwrslice, hrdstr]

/-! ### Which statements issue a word -/

theorem map_eq_ok_iff {ε α β : Type} {f : α → β} {x : Except ε α} {b : β} :
    x.map f = .ok b ↔ ∃ a, x = .ok a ∧ f a = b := by
  cases x <;> simp [Except.map]

/-- The rows of writes of `WRSTR` and `WRSLICE` end in the write of the length, where that fits (R63). -/
theorem lengthWrite_eq_ok_iff {p : Config.Params} {n : Nat} {w : PortValue} {ops : List PortInput} :
    lengthWrite p n w = .ok ops ↔ n < 2 ^ p.lenWidth ∧ [.write w] = ops := by
  unfold lengthWrite
  split <;> simp [*]

theorem not_issue_mem_txtWrites (w : BitVec 8) (text : List Byte) : .issue w ∉ txtWrites text := by
  simp [txtWrites]

theorem not_issue_mem_sliceWrites (w : BitVec 8) (bs : List Byte) : .issue w ∉ sliceWrites bs := by
  simp [sliceWrites]

theorem not_issue_mem_of_expandWrStr {p : Config.Params} {text : List Byte} {ops : List PortInput}
    (h : expandWrStr p text = .ok ops) (w : BitVec 8) : .issue w ∉ ops := by
  obtain ⟨tail, htail, rfl⟩ := map_eq_ok_iff.1 h
  obtain ⟨-, rfl⟩ := lengthWrite_eq_ok_iff.1 htail
  simp [not_issue_mem_txtWrites]

theorem not_issue_mem_of_expandWrSlice {p : Config.Params} {bs : List Byte} {ops : List PortInput}
    (h : expandWrSlice p bs = .ok ops) (w : BitVec 8) : .issue w ∉ ops := by
  obtain ⟨tail, htail, rfl⟩ := map_eq_ok_iff.1 h
  obtain ⟨-, rfl⟩ := lengthWrite_eq_ok_iff.1 htail
  simp [not_issue_mem_sliceWrites]

/-- Only `.word` and a mnemonic issue a word, and a mnemonic issues its command's. -/
theorem word_or_encode_of_issue_mem {p : Config.Params} {st : Statement} {ops : List PortInput} {w : BitVec 8}
    (h : spell p st = .ok ops) (hw : .issue w ∈ ops) : (∃ v, st = .word v) ∨ ∃ i, w = encode i := by
  cases st with
  | word v => exact .inl ⟨v, rfl⟩
  | mnemonic cs =>
    simp only [spell] at h
    split at h
    · next i _ =>
      obtain rfl := Except.ok.inj h
      exact .inr ⟨i, by simpa using hw⟩
    · cases h
  | empty | rdStr =>
    obtain rfl := Except.ok.inj h
    simp at hw
  | wr t v =>
    simp only [spell] at h
    split at h
    · obtain ⟨x, -, rfl⟩ := map_eq_ok_iff.1 h
      simp at hw
    · cases h
  | rd t =>
    obtain ⟨r, -, rfl⟩ := map_eq_ok_iff.1 h
    simp at hw
  | wrStr text => exact absurd hw (not_issue_mem_of_expandWrStr h w)
  | wrBytesId vs | wrBytesRnd vs =>
    simp only [spell] at h
    split at h
    · split at h
      · obtain rfl := Except.ok.inj h
        simp at hw
      · cases h
    · cases h
  | wrSlice vs =>
    simp only [spell] at h
    split at h
    · exact absurd hw (not_issue_mem_of_expandWrSlice h w)
    · cases h

/-- `.word` and a number on one line (R61). -/
theorem assembleLine_word_of_numberLiteral (p : Config.Params) {cs : List Byte} {v : Literal} {n : Nat}
    (hcs : IsWord cs) (hlit : numberLiteral cs = some v) (hv : UnsignedLiteral v n) :
    assembleLine p (ascii ".word" ++ 0x20 :: cs) =
      if n < 256 then .ok [.issue (BitVec.ofNat 8 n)] else .error .literalTooWide := by
  have hst : statement [.word (ascii ".word"), .word cs] = some (.word v) := by
    rw [show statement [.word (ascii ".word"), .word cs] = (numberLiteral cs).map .word from rfl, hlit]
    rfl
  rw [assembleLine_eq_spell (tokens_two_words (by decide) hcs) hst, spell_word_of_unsignedLiteral p hv]

/-- Settles O56: the line's tokens, the statement they are, and what that spells. -/
theorem mnemonicsIssueTheirWords : Obligations.MnemonicsIssueTheirWords := by
  refine ⟨fun p i before line after comment hline hblank hcomment => ?_, fun p digits n hn => ?_,
    fun p digits n hn => ?_, fun p => ⟨rfl, rfl, rfl⟩, fun p st ops w => word_or_encode_of_issue_mem⟩
  · obtain ⟨hne, hword⟩ := isWord_of_map_fold_eq hline
    rw [assembleLine_eq_spell (tokens_word_line hne hword hblank hcomment) (statement_of_map_fold_eq hline),
      spell_mnemonic_of_map_fold_eq p hline]
  · obtain ⟨-, hdigits⟩ := isWord_of_digitsValue hn
    have hcs : IsWord (0x30 :: 0x78 :: digits) :=
      ⟨List.cons_ne_nil _ _, List.forall_mem_cons.2 ⟨rfl, List.forall_mem_cons.2 ⟨rfl, hdigits⟩⟩⟩
    exact assembleLine_word_of_numberLiteral p hcs (numberLiteral_of_hexadecimal hn) (.inr rfl)
  · exact assembleLine_word_of_numberLiteral p (isWord_of_digitsValue hn) (numberLiteral_of_decimal hn)
      (.inl rfl)

/-! ### What a host writes and reads -/

section

variable (p : Config.Params) {t : Target} {r : PortReg} {v : Literal} {n : Nat}

theorem spell_wr_of_targetReg (ht : targetReg t = .ok r) (v : Literal) :
    spell p (.wr t v) = (writtenValue p r v).map fun w => [.write w] := by
  simp only [spell, ht]

theorem spell_rd_of_targetReg (ht : targetReg t = .ok r) : spell p (.rd t) = .ok [.read r] := by
  rw [spell, ht]
  rfl

/-- A register that takes an unsigned number below a bound (R62, R64). -/
theorem spell_wr_of_unsignedBelow (hv : UnsignedLiteral v n) (ht : targetReg t = .ok r) {bound : Nat}
    {f : Nat → PortValue} (hr : writtenValue p r v = (unsignedBelow bound v).map f) :
    spell p (.wr t v) = if n < bound then .ok [.write (f n)] else .error .literalTooWide := by
  rw [spell_wr_of_targetReg p ht, hr, unsignedBelow_of_unsignedLiteral hv, map_ite_ok, map_ite_ok]

/-- A register that takes an unsigned value of a fixed width (R62, R64). -/
theorem spell_wr_of_unsignedBits (hv : UnsignedLiteral v n) (ht : targetReg t = .ok r) {width : Nat}
    {f : BitVec width → PortValue} (hr : writtenValue p r v = (unsignedBits width v).map f) :
    spell p (.wr t v) =
      if n < 2 ^ width then .ok [.write (f (BitVec.ofNat width n))] else .error .literalTooWide := by
  rw [spell_wr_of_targetReg p ht, hr, unsignedBits_of_unsignedLiteral hv, map_ite_ok, map_ite_ok]

/-- A target out of range is refused in a write and in a read (R64). -/
theorem spell_of_targetReg_eq_error {e : AsmRefusal} (ht : targetReg t = .error e) (v : Literal) :
    spell p (.wr t v) = .error e ∧ spell p (.rd t) = .error e := by
  refine ⟨by simp only [spell, ht], ?_⟩
  rw [spell, ht]
  rfl

end

theorem targetReg_txt (i : Fin 26) : targetReg (.txt i.val) = .ok (.txt i) := dif_pos i.isLt

theorem targetReg_slice (i : Fin 16) : targetReg (.slice i.val) = .ok (.slice i) := dif_pos i.isLt

theorem targetReg_txt_of_le {i : Nat} (h : 26 ≤ i) : targetReg (.txt i) = .error .indexOutOfRange :=
  dif_neg (Nat.not_lt.2 h)

theorem targetReg_slice_of_le {i : Nat} (h : 16 ≤ i) : targetReg (.slice i) = .error .indexOutOfRange :=
  dif_neg (Nat.not_lt.2 h)

/-- The leading `-` is for `TS` only (log entry 10). -/
theorem writtenValue_of_negative (p : Config.Params) {r : PortReg} (h : r ≠ .ts) (n : Nat) :
    writtenValue p r (.decimal true n) = .error .malformed := by
  cases r with
  | ts => exact absurd rfl h
  | _ => rfl

/-- A quoted character is for `TXT` only (log entry 10). -/
theorem writtenValue_of_character (p : Config.Params) {r : PortReg} (h : ∀ i, r ≠ .txt i) (c : Byte) :
    writtenValue p r (.character c) = .error .malformed := by
  cases r with
  | txt i => exact absurd rfl (h i)
  | _ => rfl

theorem spell_wr_ts (p : Config.Params) (n : Nat) :
    spell p (.wr (.reg .ts) (.decimal false n)) = (if n < 2 ^ 63 then .ok [.write (.ts (BitVec.ofNat 64 n))]
      else .error .literalTooWide) ∧
    spell p (.wr (.reg .ts) (.decimal true n)) =
      (if n ≤ 2 ^ 63 then .ok [.write (.ts (BitVec.ofInt 64 (-(n : Int))))] else .error .literalTooWide) ∧
    spell p (.wr (.reg .ts) (.hexadecimal n)) = (if n < 2 ^ 64 then .ok [.write (.ts (BitVec.ofNat 64 n))]
      else .error .literalTooWide) := by
  simp only [spell_wr_of_targetReg p (t := .reg .ts) rfl, writtenValue, timestampLiteral, map_ite_ok,
    and_self]

/-! ### Lists of bytes -/

section

variable (p : Config.Params) {vs : List Literal} {bs : List Byte}
  (h : vs.Forall₂ (fun v b => UnsignedLiteral v b.toNat) bs)

include h

theorem spell_wrBytesId : spell p (.wrBytesId vs) =
    if bs.length = 16 then .ok [.write (.id (joinBytes bs))] else .error .wrongByteCount := by
  simp only [spell, byteLiterals_eq_ok h]

theorem spell_wrBytesRnd : spell p (.wrBytesRnd vs) =
    if bs.length = 10 then .ok [.write (.rnd ((joinBytes bs).setWidth 80))] else .error .wrongByteCount := by
  simp only [spell, byteLiterals_eq_ok h]

theorem spell_wrSlice : spell p (.wrSlice vs) = expandWrSlice p bs := by
  simp only [spell, byteLiterals_eq_ok h]

end

/-! ### Lines -/

/-- `RD` of a register under its name (R61). -/
theorem assembleLine_rd_of_registerNamed (p : Config.Params) {name : List Byte} {r : PortReg}
    (hname : IsWord name) (hr : registerNamed name = some r) :
    assembleLine p (ascii "RD" ++ 0x20 :: name) = .ok [.read r] := by
  have hst : statement [.word (ascii "RD"), .word name] = some (.rd (.reg r)) := by
    simp [statement, target, hr, show ascii "RD" ≠ ascii "WR" by decide]
  rw [assembleLine_eq_spell (tokens_two_words (by decide) hname) hst]
  rfl

theorem splitLines_of_not_mem {line : List Byte} (h : 0x0A ∉ line) : splitLines line = [line] := by
  induction line with
  | nil => rfl
  | cons c rest ih =>
    obtain ⟨hc, hrest⟩ := not_or.1 (mt List.mem_cons.2 h)
    rw [splitLines, if_neg (Ne.symm hc), ih hrest]

/-- A refused line spells no operation (R64). -/
theorem assemble_of_refused {p : Config.Params} {line : List Byte} {e : AsmRefusal} (hline : 0x0A ∉ line)
    (h : assembleLine p line = .error e) : assemble p line = [] := by
  rw [assemble, splitLines_of_not_mem hline, List.flatMap_singleton, h]

/-- Settles O57: what a target and a literal come to, then lists of bytes, mnemonics and whole lines;
the lines written out are evaluated. -/
theorem assemblerRefusesWhatDoesNotFit : Obligations.AssemblerRefusesWhatDoesNotFit := by
  intro p
  refine ⟨fun n v hv => ⟨spell_wr_of_unsignedBits p hv rfl rfl, spell_wr_of_unsignedBits p hv rfl rfl,
      spell_wr_of_unsignedBits p hv rfl rfl, spell_wr_of_unsignedBits p hv rfl rfl,
      spell_wr_of_unsignedBits p hv rfl rfl, spell_wr_of_unsignedBits p hv rfl rfl,
      spell_wr_of_unsignedBits p hv rfl rfl, spell_wr_of_unsignedBits p hv rfl rfl,
      spell_wr_of_unsignedBelow p hv rfl rfl, spell_wr_of_unsignedBelow p hv rfl rfl,
      fun i => spell_wr_of_unsignedBits p hv (targetReg_txt i) ?_,
      fun i => spell_wr_of_unsignedBits p hv (targetReg_slice i) rfl⟩,
    spell_wr_ts p, fun c i => spell_wr_of_targetReg p (targetReg_txt i) _,
    fun r n hr => writtenValue_of_negative p hr n, fun r c hr => writtenValue_of_character p hr c,
    fun i v hi => spell_of_targetReg_eq_error p (targetReg_txt_of_le hi) v,
    fun i v hi => spell_of_targetReg_eq_error p (targetReg_slice_of_le hi) v,
    fun i => spell_rd_of_targetReg p (targetReg_txt i), fun i => spell_rd_of_targetReg p (targetReg_slice i),
    fun vs bs h => ⟨spell_wrBytesId p h, spell_wrBytesRnd p h⟩,
    fun cs => spell_mnemonic_of_unknown p, fun cs i => spell_mnemonic_of_map_fold_eq p,
    fun r => rfl, fun e he => ?_, rfl, rfl, fun line e => assemble_of_refused,
    rfl, rfl, rfl, rfl, rfl, rfl, rfl, rfl, rfl⟩
  · rw [writtenValue, charLiteral_of_unsignedLiteral hv]
  · obtain ⟨hname, hr⟩ : IsWord (ascii e.1) ∧ registerNamed (ascii e.1) = some e.2 := by
      revert e
      decide
    exact assembleLine_rd_of_registerNamed p hname hr

/-! ### `WRSTR` and `WRSLICE` -/

/-- One write for each octet that has an element. -/
theorem length_filterMap_finRange {α β : Type} (n : Nat) (s : List α) (f : Fin n → α → β) :
    ((List.finRange n).filterMap fun i => s[i.val]?.map (f i)).length = min s.length n := by
  induction n generalizing s with
  | zero => simp
  | succ n ih =>
    rw [List.finRange_succ, List.filterMap_cons, List.filterMap_map]
    cases s with
    | nil => simp
    | cons c cs => simpa [Function.comp_def] using ih cs fun i => f i.succ

theorem length_txtWrites (text : List Byte) : (txtWrites text).length = min text.length 26 :=
  length_filterMap_finRange 26 text fun i c => PortInput.write (.txt i c)

theorem length_sliceWrites (bs : List Byte) : (sliceWrites bs).length = min bs.length 16 :=
  length_filterMap_finRange 16 bs fun i c => PortInput.write (.slice i c)

theorem expandWrStr_eq_ok {p : Config.Params} {text : List Byte} (h : text.length < 2 ^ p.lenWidth) :
    expandWrStr p text = .ok (txtWrites text ++ [.write (.txtLen text.length)]) := by
  rw [expandWrStr, lengthWrite, if_pos h]
  rfl

theorem expandWrSlice_eq_ok {p : Config.Params} {bs : List Byte} (h : bs.length < 2 ^ p.lenWidth) :
    expandWrSlice p bs = .ok (sliceWrites bs ++ [.write (.sliceLen bs.length)]) := by
  rw [expandWrSlice, lengthWrite, if_pos h]
  rfl

/-- New values and written bits for `TXT` and `TXT_LEN` change no other register. -/
theorem onlyChanges_txt (s : State) (els : Vector Byte 26) (bits : Vector Bool 26) (n : Nat) :
    OnlyChanges ((List.finRange 26).map .txt ++ [.txtLen]) s
      (State.writeTxtLen { s with txt := els, written := { s.written with txt := bits } } n) := by
  refine ⟨rfl, rfl, rfl, fun r hr _ _ => ?_⟩
  cases r with
  | txt i => simp at hr
  | txtLen => simp at hr
  | _ => exact ⟨rfl, rfl⟩

/-- New values and written bits for `SLICE` and `SLICE_LEN` change no other register. -/
theorem onlyChanges_slice (s : State) (els : Vector Byte 16) (bits : Vector Bool 16) (n : Nat) :
    OnlyChanges ((List.finRange 16).map .slice ++ [.sliceLen]) s
      (State.writeSliceLen { s with slice := els, written := { s.written with slice := bits } } n) := by
  refine ⟨rfl, rfl, rfl, fun r hr _ _ => ?_⟩
  cases r with
  | slice i => simp at hr
  | sliceLen => simp at hr
  | _ => exact ⟨rfl, rfl⟩

/-- The row of writes of `WRSTR` leaves the octets that have an element, with their written bits, and the
length (R63). -/
theorem exists_runInputs_txtWrites (s : State) (text : List Byte) (h : text.length < 2 ^ s.params.lenWidth) :
    ∃ els bits, runInputs (txtWrites text ++ [.write (.txtLen text.length)]) s =
        .next (State.writeTxtLen { s with txt := els, written := { s.written with txt := bits } }
          text.length) ∧
      ∀ i : Fin 26, els[i] = text.getD i.val s.txt[i] ∧
        bits[i] = (s.written.txt[i] || decide (i.val < text.length)) := by
  obtain ⟨els, bits, hrun, hels⟩ :=
    runInputs_txtWrites text [.write (.txtLen text.length)] (List.finRange 26) s
  refine ⟨els, bits, hrun.trans ?_, fun i => by simpa using hels i⟩
  rw [runInputs_singleton, perform_write_eq_next_iff]
  exact ⟨decide_eq_true h, rfl⟩

/-- The row of writes of `WRSLICE` leaves the bytes that have an element, with their written bits, and the
length (R63). -/
theorem exists_runInputs_sliceWrites (s : State) (bs : List Byte) (h : bs.length < 2 ^ s.params.lenWidth) :
    ∃ els bits, runInputs (sliceWrites bs ++ [.write (.sliceLen bs.length)]) s =
        .next (State.writeSliceLen { s with slice := els, written := { s.written with slice := bits } }
          bs.length) ∧
      ∀ i : Fin 16, els[i] = bs.getD i.val s.slice[i] ∧
        bits[i] = (s.written.slice[i] || decide (i.val < bs.length)) := by
  obtain ⟨els, bits, hrun, hels⟩ :=
    runInputs_sliceWrites bs [.write (.sliceLen bs.length)] (List.finRange 16) s
  refine ⟨els, bits, hrun.trans ?_, fun i => by simpa using hels i⟩
  rw [runInputs_singleton, perform_write_eq_next_iff]
  exact ⟨decide_eq_true h, rfl⟩

/-- Settles O58: the writes of the elements, then the write of the length. -/
theorem wrstrWritesTheText : Obligations.WrstrWritesTheText := by
  intro s text hfits
  obtain ⟨els, bits, hrun, hels⟩ := exists_runInputs_txtWrites s text hfits
  have hlength : (txtWrites text ++ [PortInput.write (.txtLen text.length)]).length =
      min text.length 26 + 1 := by
    rw [List.length_append, length_txtWrites, List.length_singleton]
  exact ⟨_, _, expandWrStr_eq_ok hfits, hlength, hrun, rfl, rfl, rfl, onlyChanges_txt s els bits _,
    fun i => (hels i).1, rfl, fun i => (hels i).2⟩

/-- Settles O59: the numbers are read as bytes, and then it is the writes of the elements and of the length. -/
theorem wrsliceWritesTheSlice : Obligations.WrsliceWritesTheSlice := by
  intro s vs bs hvs hfits
  obtain ⟨els, bits, hrun, hels⟩ := exists_runInputs_sliceWrites s bs hfits
  have hlength : (sliceWrites bs ++ [PortInput.write (.sliceLen bs.length)]).length =
      min bs.length 16 + 1 := by
    rw [List.length_append, length_sliceWrites, List.length_singleton]
  exact ⟨_, _, (spell_wrSlice _ hvs).trans (expandWrSlice_eq_ok hfits), hlength, hrun, rfl, rfl, rfl,
    onlyChanges_slice s els bits _, fun i => (hels i).1, rfl, fun i => (hels i).2⟩

end Sys2Proof.Machine
end

section
/-! The bytes of an Identifier, the packer's commands, their round trips and the order of Identifiers (family
40_packer.md). -/

namespace Sys2Proof.Machine

/-! ### What a command that succeeds leaves -/

/-- After host writes every register written counts as written, and those that did before (R32). -/
theorem State.isWritten_hostWrites {vs : List PortValue} {s : State} {r : PortReg}
    (h : r ∈ vs.map PortValue.reg ∨ s.isWritten r = true) : (s.hostWrites vs).isWritten r = true := by
  induction vs generalizing s with
  | nil => exact h.resolve_left List.not_mem_nil
  | cons v vs ih =>
    refine ih (or_iff_not_imp_left.2 fun hvs => ?_)
    obtain rfl | hr := eq_or_ne r v.reg
    · exact s.isWritten_hostWrite_reg v
    · rw [(s.hostWrite_of_ne hr).2]
      exact h.resolve_left fun hmem => (List.mem_cons.1 hmem).elim hr hvs

/-- Host writes with the outcome OK are what a successful command leaves. -/
theorem leavesOk_hostWrites (s : State) (vs : List PortValue) :
    LeavesOk (vs.map PortValue.reg) s ((s.hostWrites vs).setStatus .ok) := by
  refine ⟨rfl, rfl, fun r hr => ?_, ?_⟩
  · rw [State.isWritten_setStatus]
    exact State.isWritten_hostWrites (.inl hr)
  · simpa using (onlyChanges_hostWrites s vs).trans (onlyChanges_setStatus _ .ok)

/-- Recording FROMSLICE's wrong length is all that its failure leaves (R72, R99). -/
theorem leavesError_bytesError (s : State) (n : Nat) :
    LeavesError 3 0 0 16 n s (s.setStatus (.bytesError n)) :=
  ⟨kindOf_statusWord .., indexOf_statusWord .., charOf_statusWord .., expectedOf_statusWord ..,
    reservedLow_statusWord .., reservedHigh_statusWord .., rfl, onlyChanges_setStatus s _⟩

/-! ### Bytes of a value -/

/-- The first bytes of a concatenation are those of its upper part (R9). -/
theorem byteAt_append_left {m n : Nat} (hi : BitVec m) (lo : BitVec n) {k : Nat} (h : 8 * (k + 1) ≤ m) :
    byteAt (hi ++ lo) k = byteAt hi k := by
  rw [byteAt, byteAt, BitVec.extractLsb'_append_eq_of_le (by omega),
    show m + n - 8 * (k + 1) - n = m - 8 * (k + 1) by omega]

/-- After the `i` bytes of the upper part come those of the lower (R9). -/
theorem byteAt_append_right {m n : Nat} (hi : BitVec m) (lo : BitVec n) {i j : Nat} (hm : m = 8 * i)
    (hj : 8 * (j + 1) ≤ n) : byteAt (hi ++ lo) (i + j) = byteAt lo j := by
  rw [byteAt, byteAt, show m + n - 8 * (i + j + 1) = n - 8 * (j + 1) by omega,
    BitVec.extractLsb'_append_eq_of_add_le (by omega)]

/-- Byte `k` of sixteen joined bytes is byte `k` of them (R71). -/
theorem byteAt_joinBytes {bs : List Byte} (h : bs.length = 16) {k : Nat} (hk : k < 16) :
    byteAt (joinBytes bs) k = bs.getD k 0 := by
  apply BitVec.eq_of_getLsbD_eq
  intro i hi
  rw [getLsbD_byteAt, getLsbD_joinBytes h (by omega), show 15 - (128 - 8 * (k + 1) + i) / 8 = k by omega,
    show (128 - 8 * (k + 1) + i) % 8 = i by omega]
  simp [hi]

theorem eq_allOnes_of_toNat {width : Nat} {v : BitVec width} (h : v.toNat = 2 ^ width - 1) :
    v = BitVec.allOnes width :=
  BitVec.eq_of_toNat_eq (h.trans BitVec.toNat_allOnes.symm)

/-- The number that a row of bytes is in base 256, the first byte the most significant. -/
def bytesNumber (bs : List Byte) : Nat := Nat.ofDigits 256 (bs.map BitVec.toNat).reverse

theorem bytesNumber_append_singleton (bs : List Byte) (b : Byte) :
    bytesNumber (bs ++ [b]) = b.toNat + 256 * bytesNumber bs := by
  simp [bytesNumber, Nat.ofDigits_cons]

theorem bytesNumber_cons (b : Byte) (bs : List Byte) :
    bytesNumber (b :: bs) = bytesNumber bs + 256 ^ bs.length * b.toNat := by
  simp [bytesNumber, Nat.ofDigits_append]

theorem bytesNumber_lt (bs : List Byte) : bytesNumber bs < 256 ^ bs.length := by
  have hdigits : ∀ d ∈ (bs.map BitVec.toNat).reverse, d < 256 := by
    simpa using fun b _ => b.isLt
  simpa [bytesNumber] using Nat.ofDigits_lt_base_pow_length (by norm_num) hdigits

/-- The first `n` bytes of a value are its bits above the others, as a number. -/
theorem bytesNumber_map_byteAt {width : Nat} (v : BitVec width) {n : Nat} (h : 8 * n ≤ width) :
    bytesNumber ((List.range n).map (byteAt v)) = v.toNat / 2 ^ (width - 8 * n) := by
  induction n with
  | zero => simp [bytesNumber, Nat.div_eq_of_lt v.isLt]
  | succ n ih =>
    have hshift : v.toNat / 2 ^ (width - 8 * n) = v.toNat / 2 ^ (width - 8 * (n + 1)) / 256 := by
      rw [Nat.div_div_eq_div_mul, show width - 8 * n = width - 8 * (n + 1) + 8 by omega, Nat.pow_add]
    have hbyte : (byteAt v n).toNat = v.toNat / 2 ^ (width - 8 * (n + 1)) % 256 := by
      rw [byteAt, BitVec.extractLsb'_toNat, Nat.shiftRight_eq_div_pow]
    rw [List.range_succ, List.map_append, List.map_singleton, bytesNumber_append_singleton, ih (by omega),
      hshift, hbyte, Nat.mod_add_div]

/-- The bytes of an Identifier are its 128-bit integer in base 256 (R16). -/
theorem bytesNumber_identifierBytes (v : Identifier) : bytesNumber (identifierBytes v) = v.toNat := by
  rw [identifierBytes, bytesNumber_map_byteAt v (by omega)]
  exact Nat.div_one _

theorem identifierBytes_injective : Function.Injective identifierBytes := fun a b h =>
  BitVec.toNat_injective (by rw [← bytesNumber_identifierBytes a, h, bytesNumber_identifierBytes])

/-! ### The order of Identifiers -/

/-- Rows of the same number of bytes come in the order of the numbers they are: the first byte that differs
outweighs all that follow it (R76). -/
theorem bytesBefore_iff {xs ys : List Byte} (h : xs.length = ys.length) :
    bytesBefore xs ys = true ↔ bytesNumber xs < bytesNumber ys := by
  induction xs generalizing ys with
  | nil =>
    obtain rfl := List.eq_nil_of_length_eq_zero h.symm
    simp [bytesBefore]
  | cons x xs ih =>
    obtain _ | ⟨y, ys⟩ := ys
    · cases h
    have hlength : xs.length = ys.length := Nat.succ.inj h
    rw [bytesNumber_cons, bytesNumber_cons, hlength, bytesBefore]
    by_cases hxy : x = y
    · rw [if_pos hxy, ih hlength, hxy]
      omega
    · rw [if_neg hxy, decide_eq_true_eq]
      have hxs : bytesNumber xs < 256 ^ ys.length := hlength ▸ bytesNumber_lt xs
      have hys := bytesNumber_lt ys
      have outweighs {a b : Nat} (hab : a < b) :
          256 ^ ys.length * a + 256 ^ ys.length ≤ 256 ^ ys.length * b :=
        Nat.mul_le_mul_left _ hab
      constructor
      · intro hlt
        have := outweighs hlt
        omega
      · intro hlt
        by_contra hge
        have := outweighs (lt_of_le_of_ne (Nat.not_lt.1 hge) fun e => hxy (BitVec.eq_of_toNat_eq e.symm))
        omega

theorem identifierBefore_iff {a b : Identifier} : identifierBefore a b = true ↔ a.toNat < b.toNat := by
  rw [identifierBefore, bytesBefore_iff (by simp), bytesNumber_identifierBytes, bytesNumber_identifierBytes]

/-- Settles O52: the bytes of an Identifier are its integer in base 256. -/
theorem identifierOrderIsIntegerOrder : Obligations.IdentifierOrderIsIntegerOrder := by
  refine fun a b => ⟨⟨fun h _ _ => h ▸ rfl, fun h => identifierBytes_injective ?_⟩, identifierBefore_iff⟩
  exact List.map_congr_left fun k hk => h k (List.mem_range.1 hk)

/-! ### FROMSLICE -/

/-- Settles O33: FROMSLICE is the write of the sixteen joined bytes, or the status write alone. -/
theorem fromsliceCopiesSixteenBytes : Obligations.FromsliceCopiesSixteenBytes := by
  refine ⟨decode_encode .fromSlice, fun s => ⟨fun h => ⟨operands_fromSlice_of_length_eq h, fun _ => ?_⟩,
    fun h => ⟨operands_fromSlice_of_length_ne h, fun _ => ?_⟩⟩⟩
  · refine ⟨_, (exec_eq_next .fromSlice s).trans (congrArg _ (State.fromSlice_of_length_eq h)),
      leavesOk_hostWrites s [.id _], fun k => ?_⟩
    rw [State.setStatus_id, State.writeId_id, byteAt_joinBytes (by simp) k.isLt]
    simp
  · exact ⟨_, (exec_eq_next .fromSlice s).trans (congrArg _ (State.fromSlice_of_length_ne h)),
      leavesError_bytesError s s.sliceLen⟩

/-! ### Timestamps -/

/-- An Identifier as the number of its timestamp and of its random payload (R65). -/
theorem toNat_packTimestamp (ts : BitVec 64) (rnd : BitVec 80) :
    (packTimestamp ts rnd).toNat = (ts.extractLsb' 0 48).toNat * 2 ^ 80 + rnd.toNat := by
  rw [packTimestamp, BitVec.toNat_append, ← Nat.shiftLeft_add_eq_or_of_lt rnd.isLt, Nat.shiftLeft_eq]

/-- The timestamp decides the order, whatever the random payloads (R77). -/
theorem identifierBefore_packTimestamp {tsA tsB : BitVec 64} (rndA rndB : BitVec 80)
    (h : (tsA.extractLsb' 0 48).toNat < (tsB.extractLsb' 0 48).toNat) :
    identifierBefore (packTimestamp tsA rndA) (packTimestamp tsB rndB) = true := by
  rw [identifierBefore_iff, toNat_packTimestamp, toNat_packTimestamp]
  have := rndA.isLt
  omega

/-- The low 48 bits of a timestamp, unsigned, are its remainder modulo 2^48. -/
theorem toNat_low48 (ts : BitVec 64) : ((ts.extractLsb' 0 48).toNat : Int) = ts.toInt % 2 ^ 48 := by
  rw [BitVec.extractLsb'_toNat, Nat.shiftRight_zero, BitVec.toInt_eq_toNat_cond]
  split <;> omega

/-- Settles O53: each clause is a comparison of the low 48 bits. -/
theorem timestampOrderHoldsInRange : Obligations.TimestampOrderHoldsInRange := by
  intro sA sB tA tB hA hB
  obtain rfl := Host.Outcome.next.inj ((exec_eq_next .pack sA).symm.trans hA)
  obtain rfl := Host.Outcome.next.inj ((exec_eq_next .pack sB).symm.trans hB)
  have hlowA := toNat_low48 sA.ts
  have hlowB := toNat_low48 sB.ts
  exact ⟨identifierBefore_packTimestamp _ _,
    fun _ _ _ => identifierBefore_packTimestamp _ _ (by omega),
    fun _ _ _ _ => identifierBefore_packTimestamp _ _ (by omega),
    fun _ _ => identifierBefore_packTimestamp _ _ (by omega),
    fun _ _ => identifierBefore_packTimestamp _ _ (by omega)⟩

/-- The low 48 bits of a timestamp as a signed number. -/
theorem toInt_low48 (ts : BitVec 64) : (ts.extractLsb' 0 48).toInt = ts.toInt.bmod (2 ^ 48) := by
  rw [BitVec.toInt_extractLsb', Nat.shiftRight_zero, BitVec.toInt_eq_toNat_bmod ts,
    Int.bmod_bmod_of_dvd (pow_dvd_pow 2 (by omega))]

/-- MILLIS finds the low 48 bits that PACK wrote (R73). -/
theorem timestampOf_packTimestamp (ts : BitVec 64) (rnd : BitVec 80) :
    timestampOf (packTimestamp ts rnd) = (ts.extractLsb' 0 48).signExtend 64 := by
  rw [timestampOf, packTimestamp, BitVec.extractLsb'_append_eq_left]

/-- A timestamp survives PACK and MILLIS exactly if its signed value has 48 bits (R73). -/
theorem signExtend_low48_eq_iff (ts : BitVec 64) :
    (ts.extractLsb' 0 48).signExtend 64 = ts ↔ -2 ^ 47 ≤ ts.toInt ∧ ts.toInt < 2 ^ 47 := by
  rw [← BitVec.toInt_inj, BitVec.toInt_signExtend_of_le (by omega), toInt_low48,
    Int.bmod_eq_iff (by norm_num)]
  norm_num

/-- Settles O49: MILLIS reads back the 48 bits that PACK kept. -/
theorem packThenMillisSignExtends : Obligations.PackThenMillisSignExtends := by
  refine fun s _ => ⟨_, _, exec_eq_next .pack s, exec_eq_next .millis _, ?_⟩
  have hts : ((s.after .pack).after .millis).ts = (s.ts.extractLsb' 0 48).signExtend 64 :=
    timestampOf_packTimestamp s.ts s.rnd
  rw [hts]
  exact ⟨rfl, signExtend_low48_eq_iff s.ts⟩

theorem byteAt_packTimestamp_timestamp (ts : BitVec 64) (rnd : BitVec 80) {k : Nat} (hk : k < 6) :
    byteAt (packTimestamp ts rnd) k = byteAt (ts.extractLsb' 0 48) k :=
  byteAt_append_left _ rnd (by omega)

theorem byteAt_packTimestamp_rnd (ts : BitVec 64) (rnd : BitVec 80) {j : Nat} (hj : j < 10) :
    byteAt (packTimestamp ts rnd) (6 + j) = byteAt rnd j :=
  byteAt_append_right _ rnd rfl (by omega)

/-- Where the six low bytes of a timestamp are alike, so are the first six of its Identifier (R65). -/
theorem byteAt_packTimestamp_of_low48 {c : BitVec 64} {b : Byte}
    (hc : ∀ k < 6, byteAt (c.extractLsb' 0 48) k = b) {ts : BitVec 64} (h : ts = c) (rnd : BitVec 80) (k : Nat)
    (hk : k < 6) : byteAt (packTimestamp ts rnd) k = b := by
  rw [byteAt_packTimestamp_timestamp ts rnd hk, h, hc k hk]

/-- Settles O27: PACK is one write of ID, whose first six bytes are those of the low 48 bits of TS. -/
theorem packWritesTheIdentifier : Obligations.PackWritesTheIdentifier := by
  refine ⟨decode_encode .pack, fun s => ⟨rfl, fun _ => ⟨_, exec_eq_next .pack s,
    leavesOk_hostWrites s [.id _], ?_⟩⟩⟩
  have hid : (s.after .pack).id = packTimestamp s.ts s.rnd := rfl
  have htimestamp (k : Nat) (hk : k < 6) := byteAt_packTimestamp_timestamp s.ts s.rnd hk
  rw [hid]
  refine ⟨rfl, htimestamp, fun j => byteAt_packTimestamp_rnd s.ts s.rnd,
    fun h => byteAt_packTimestamp_of_low48 (by decide) h s.rnd,
    fun h => byteAt_packTimestamp_of_low48 (by decide) h s.rnd,
    fun h => byteAt_packTimestamp_of_low48 (by decide) h s.rnd,
    fun h => ⟨?_, fun k hk => ?_⟩, fun hts hrnd => ?_⟩
  · rw [htimestamp 0 (by omega), h]
    rfl
  · rw [htimestamp (k + 1) (by omega), h]
    revert k
    decide
  · rw [hts, hrnd]
    rfl

/-- Bit 127 of an Identifier is the sign of its timestamp (R66). -/
theorem msb_timestamp_of_bit {v : Identifier} (h : v.extractLsb' 127 1 = 1) :
    (v.extractLsb' 80 48).msb = true := by
  have hbit : (v.extractLsb' 127 1).getLsbD 0 = true := by rw [h]; rfl
  simpa [BitVec.msb_eq_getLsbD_last] using hbit

/-- Settles O28: MILLIS is one write of TS, and sign extension keeps the signed value. -/
theorem millisWritesTheTimestamp : Obligations.MillisWritesTheTimestamp := by
  refine ⟨decode_encode .millis, fun s => ⟨rfl, fun _ => ⟨_, exec_eq_next .millis s,
    leavesOk_hostWrites s [.ts _], ?_⟩⟩⟩
  have hts : (s.after .millis).ts = (s.id.extractLsb' 80 48).signExtend 64 := rfl
  have hsigned : (s.after .millis).ts.toInt = (s.id.extractLsb' 80 48).toInt :=
    BitVec.toInt_signExtend_of_le (by omega)
  rw [hsigned, hts]
  refine ⟨rfl, rfl, fun h => BitVec.toInt_neg_of_msb_true (msb_timestamp_of_bit h), fun h => ?_,
    fun h => ?_, fun h => ?_, fun h => ?_⟩
  · rw [h]
    decide
  all_goals
    rw [h]
    rfl

/-! ### Fields -/

section
variable (f1 : BitVec 32) (f2 f3 : BitVec 16) (f4 f5 : BitVec 32)

theorem fieldF1_packFields : fieldF1 (packFields f1 f2 f3 f4 f5) = f1 := by
  rw [fieldF1, packFields, BitVec.extractLsb'_append_eq_of_le (xlo := f5) (by omega),
    BitVec.extractLsb'_append_eq_of_le (xlo := f4) (by omega),
    BitVec.extractLsb'_append_eq_of_le (xlo := f3) (by omega),
    BitVec.extractLsb'_append_eq_of_le (xlo := f2) (by omega),
    BitVec.extractLsb'_eq_self]

theorem fieldF2_packFields : fieldF2 (packFields f1 f2 f3 f4 f5) = f2 := by
  rw [fieldF2, packFields, BitVec.extractLsb'_append_eq_of_le (xlo := f5) (by omega),
    BitVec.extractLsb'_append_eq_of_le (xlo := f4) (by omega),
    BitVec.extractLsb'_append_eq_of_le (xlo := f3) (by omega),
    BitVec.extractLsb'_append_eq_right]

theorem fieldF3_packFields : fieldF3 (packFields f1 f2 f3 f4 f5) = f3 := by
  rw [fieldF3, packFields, BitVec.extractLsb'_append_eq_of_le (xlo := f5) (by omega),
    BitVec.extractLsb'_append_eq_of_le (xlo := f4) (by omega),
    BitVec.extractLsb'_append_eq_right]

theorem fieldF4_packFields : fieldF4 (packFields f1 f2 f3 f4 f5) = f4 := by
  rw [fieldF4, packFields, BitVec.extractLsb'_append_eq_of_le (xlo := f5) (by omega),
    BitVec.extractLsb'_append_eq_right]

theorem fieldF5_packFields : fieldF5 (packFields f1 f2 f3 f4 f5) = f5 := by
  rw [fieldF5, packFields, BitVec.extractLsb'_append_eq_right]

/-- The timestamp's place holds the first two fields (R67). -/
theorem extractLsb'_timestamp_packFields : (packFields f1 f2 f3 f4 f5).extractLsb' 80 48 = f1 ++ f2 := by
  rw [packFields, BitVec.extractLsb'_append_eq_of_le (xlo := f5) (by omega),
    BitVec.extractLsb'_append_eq_of_le (xlo := f4) (by omega),
    BitVec.extractLsb'_append_eq_of_le (xlo := f3) (by omega),
    BitVec.extractLsb'_eq_self]

theorem byteAt_packFields_f1 {k : Nat} (hk : k < 4) : byteAt (packFields f1 f2 f3 f4 f5) k = byteAt f1 k := by
  rw [packFields, byteAt_append_left _ f5 (by omega), byteAt_append_left _ f4 (by omega),
    byteAt_append_left _ f3 (by omega), byteAt_append_left _ f2 (by omega)]

theorem byteAt_packFields_f2 {k : Nat} (hk : k < 2) :
    byteAt (packFields f1 f2 f3 f4 f5) (4 + k) = byteAt f2 k := by
  rw [packFields, byteAt_append_left _ f5 (by omega), byteAt_append_left _ f4 (by omega),
    byteAt_append_left _ f3 (by omega), byteAt_append_right f1 f2 rfl (by omega)]

theorem byteAt_packFields_f3 {k : Nat} (hk : k < 2) :
    byteAt (packFields f1 f2 f3 f4 f5) (6 + k) = byteAt f3 k := by
  rw [packFields, byteAt_append_left _ f5 (by omega), byteAt_append_left _ f4 (by omega),
    byteAt_append_right (i := 6) _ f3 rfl (by omega)]

theorem byteAt_packFields_f4 {k : Nat} (hk : k < 4) :
    byteAt (packFields f1 f2 f3 f4 f5) (8 + k) = byteAt f4 k := by
  rw [packFields, byteAt_append_left _ f5 (by omega), byteAt_append_right (i := 8) _ f4 rfl (by omega)]

theorem byteAt_packFields_f5 {k : Nat} (hk : k < 4) :
    byteAt (packFields f1 f2 f3 f4 f5) (12 + k) = byteAt f5 k :=
  byteAt_append_right _ f5 rfl (by omega)

end

/-- The bit ranges of R68 leave no bit of an Identifier out. -/
theorem packFields_fields (v : Identifier) :
    packFields (fieldF1 v) (fieldF2 v) (fieldF3 v) (fieldF4 v) (fieldF5 v) = v := by
  rw [packFields, fieldF1, fieldF2, fieldF3, fieldF4, fieldF5]
  iterate 4 rw [BitVec.extractLsb'_append_extractLsb'_eq_extractLsb' (by rfl)]
  exact BitVec.extractLsb'_eq_self

/-- Settles O50: the five bit ranges take a concatenation apart, and its parts put it together again. -/
theorem fieldsRoundTrip : Obligations.FieldsRoundTrip :=
  ⟨fun s _ => ⟨_, _, exec_eq_next .packF s, exec_eq_next .unpackF _, fieldF1_packFields ..,
      fieldF2_packFields .., fieldF3_packFields .., fieldF4_packFields .., fieldF5_packFields ..⟩,
    fun s _ => ⟨_, _, exec_eq_next .unpackF s, exec_eq_next .packF _, packFields_fields s.id⟩⟩

/-- Settles O29: PACKF is one write of ID, a concatenation whose bytes are those of its parts. -/
theorem packfWritesTheIdentifier : Obligations.PackfWritesTheIdentifier := by
  refine ⟨decode_encode .packF, fun s => ⟨rfl, fun _ => ⟨_, exec_eq_next .packF s,
    leavesOk_hostWrites s [.id _], rfl, ?_⟩⟩⟩
  have hid : (s.after .packF).id = packFields s.f1 s.f2 s.f3 s.f4 s.f5 := rfl
  rw [hid]
  refine ⟨fun k hk => ⟨byteAt_packFields_f1 _ _ _ _ _ hk, byteAt_packFields_f4 _ _ _ _ _ hk,
      byteAt_packFields_f5 _ _ _ _ _ hk⟩,
    fun k hk => ⟨byteAt_packFields_f2 _ _ _ _ _ hk, byteAt_packFields_f3 _ _ _ _ _ hk⟩,
    extractLsb'_timestamp_packFields .., ?_, ?_, ?_⟩
  · rintro ⟨h1, h2, h3, h4, h5⟩
    rw [h1, h2, h3, h4, h5]
    rfl
  · rintro ⟨h1, h2, h3, h4, h5⟩
    rw [eq_allOnes_of_toNat h1, eq_allOnes_of_toNat h2, eq_allOnes_of_toNat h3, eq_allOnes_of_toNat h4,
      eq_allOnes_of_toNat h5]
    rfl
  · rintro ⟨h1, h2, h3, h4, h5⟩
    rw [h1, h2, h3, h4, h5]
    rfl

/-- Settles O30: UNPACKF is five writes, of the five bit ranges. -/
theorem unpackfWritesTheFields : Obligations.UnpackfWritesTheFields := by
  refine ⟨decode_encode .unpackF, fun s => ⟨rfl, fun _ => ⟨_, exec_eq_next .unpackF s,
    leavesOk_hostWrites s [.f1 _, .f2 _, .f3 _, .f4 _, .f5 _], rfl, rfl, rfl, rfl, rfl, fun h => ?_⟩⟩⟩
  change fieldF1 s.id = _ ∧ fieldF2 s.id = _ ∧ fieldF3 s.id = _ ∧ fieldF4 s.id = _ ∧ fieldF5 s.id = _
  rw [h]
  exact ⟨rfl, rfl, rfl, rfl, rfl⟩

/-! ### Integers -/

/-- Settles O31: FROMINT is one write of ID. -/
theorem fromintWritesTheIdentifier : Obligations.FromintWritesTheIdentifier := by
  refine ⟨decode_encode .fromInt, fun s => ⟨rfl, fun _ => ⟨_, exec_eq_next .fromInt s,
    leavesOk_hostWrites s [.id _], rfl, ?_⟩⟩⟩
  have hid : (s.after .fromInt).id = s.u := rfl
  rw [hid]
  refine ⟨fun k _ => ?_, fun h => ?_, fun h => ?_, fun h => ?_⟩
  · rw [byteAt, show 128 - 8 * (k + 1) = 120 - 8 * k by omega]
  · rw [h]
    decide
  · rw [eq_allOnes_of_toNat h]
    decide
  · rw [h]
    rfl

/-- Settles O32: TOINT is one write of U, and the sixteen bytes determine ID. -/
theorem tointWritesTheInteger : Obligations.TointWritesTheInteger := by
  refine ⟨decode_encode .toInt, fun s => ⟨rfl, fun _ => ⟨_, exec_eq_next .toInt s,
    leavesOk_hostWrites s [.u _], rfl, fun h => ?_⟩⟩⟩
  change s.id.toNat = _
  rw [← bytesNumber_identifierBytes, h]
  rfl

/-- Settles O51: each command copies the whole 128 bits. -/
theorem integerRoundTrip : Obligations.IntegerRoundTrip :=
  ⟨fun s _ => ⟨_, _, exec_eq_next .fromInt s, exec_eq_next .toInt _, rfl⟩,
    fun s _ => ⟨_, _, exec_eq_next .toInt s, exec_eq_next .fromInt _, rfl⟩⟩

end Sys2Proof.Machine
end

section
/-! The codec's tables, symbols and bytes as windows of one bit string, and the commands ENC.L, ENC.U and DEC
(family 41_codec.md). -/

namespace Sys2Proof.Machine

/-! ### The tables -/

theorem fold_symbolChar_lower (v : Symbol) :
    fold (symbolChar lowerAlphabet v) = symbolChar upperAlphabet v := by
  revert v; decide

theorem fold_symbolChar_upper (v : Symbol) :
    fold (symbolChar upperAlphabet v) = symbolChar upperAlphabet v := by
  revert v; decide

/-- Settles O39: the alphabets are constants, and folding is checked for each of the 32 symbols. -/
theorem alphabetsAreCrockford : Obligations.AlphabetsAreCrockford :=
  ⟨by decide, by decide, rfl, rfl, fold_symbolChar_lower, by decide⟩

/-- Settles O40: the table is a constant for each value of `O_ALIAS`. -/
theorem inverseTableHasTheListedEntries : Obligations.InverseTableHasTheListedEntries := by
  unfold Obligations.InverseTableHasTheListedEntries
  decide

/-- The octets with a symbol value (R80), checked for each octet. -/
theorem lookup_ne_none_iff (o : Bool) (c : Byte) : lookup o c ≠ none ↔
    c ∈ upperAlphabet ∨ c ∈ lowerAlphabet ∨ c ∈ ascii "IiLl" ∨ (o = true ∧ c ∈ ascii "Oo") := by
  revert o c; decide

/-- Settles O41: the aliases beside the octets of the alphabets are six letters. -/
theorem lookupAcceptsExactlyTheSymbolOctets : Obligations.LookupAcceptsExactlyTheSymbolOctets := fun o =>
  ⟨lookup_ne_none_iff o, by revert o; decide, by decide, by decide⟩

/-! ### Windows of a bit string -/

/-- Symbol `k` of a value of the given width, symbol 0 the most significant: to symbols what `byteAt` is to
bytes. -/
def symbolAt {width : Nat} (v : BitVec width) (k : Nat) : Symbol := v.extractLsb' (width - 5 * (k + 1)) 5

/-- A symbol of a value, bit by bit. -/
theorem getLsbD_symbolAt {width : Nat} (v : BitVec width) (k i : Nat) :
    (symbolAt v k).getLsbD i = (decide (i < 5) && v.getLsbD (width - 5 * (k + 1) + i)) := by
  simp [symbolAt]

theorem symbolAt_append_left {m n : Nat} (hi : BitVec m) (lo : BitVec n) {k : Nat} (h : 5 * (k + 1) ≤ m) :
    symbolAt (hi ++ lo) k = symbolAt hi k := by
  rw [symbolAt, symbolAt, BitVec.extractLsb'_append_eq_of_le (by omega),
    show m + n - 5 * (k + 1) - n = m - 5 * (k + 1) by omega]

theorem symbolAt_append_right {m n : Nat} (hi : BitVec m) (lo : BitVec n) {i j : Nat} (hm : m = 5 * i)
    (hj : 5 * (j + 1) ≤ n) : symbolAt (hi ++ lo) (i + j) = symbolAt lo j := by
  rw [symbolAt, symbolAt, show m + n - 5 * (i + j + 1) = n - 5 * (j + 1) by omega,
    BitVec.extractLsb'_append_eq_of_add_le (by omega)]

/-- The last symbol of a concatenation. -/
theorem symbolAt_append_last {m : Nat} (hi : BitVec m) (v : Symbol) {k : Nat} (hm : m = 5 * k) :
    symbolAt (hi ++ v) k = v := by
  subst hm
  exact (symbolAt_append_right hi v (j := 0) rfl (by omega)).trans BitVec.extractLsb'_eq_self

/-- Five bytes hold eight symbols: R81's shifts and masks take the 5-bit windows of the 40 bits. -/
theorem windows_byteAt (u : BitVec 40) :
    windows (byteAt u 0) (byteAt u 1) (byteAt u 2) (byteAt u 3) (byteAt u 4) =
      (List.range 8).map (symbolAt u) := by
  change _ = [symbolAt u 0, symbolAt u 1, symbolAt u 2, symbolAt u 3, symbolAt u 4, symbolAt u 5,
    symbolAt u 6, symbolAt u 7]
  simp only [windows, List.cons.injEq, and_true]
  refine ⟨?_, ?_, ?_, ?_, ?_, ?_, ?_, ?_⟩
  all_goals
    apply BitVec.eq_of_getLsbD_eq
    intro i hi
    simp only [BitVec.getLsbD_setWidth, BitVec.getLsbD_or, BitVec.getLsbD_and, BitVec.getLsbD_shiftLeft,
      BitVec.getLsbD_ushiftRight, getLsbD_byteAt, getLsbD_symbolAt]
    interval_cases i <;> simp

/-- Eight symbols hold five bytes: R88's shifts take the 8-bit windows of the 40 bits. -/
theorem chunkBytes_symbolAt (u : BitVec 40) :
    chunkBytes (symbolAt u 0) (symbolAt u 1) (symbolAt u 2) (symbolAt u 3) (symbolAt u 4) (symbolAt u 5)
      (symbolAt u 6) (symbolAt u 7) = (List.range 5).map (byteAt u) := by
  change _ = [byteAt u 0, byteAt u 1, byteAt u 2, byteAt u 3, byteAt u 4]
  simp only [chunkBytes, List.cons.injEq, and_true]
  refine ⟨?_, ?_, ?_, ?_, ?_⟩
  all_goals
    apply BitVec.eq_of_getLsbD_eq
    intro i hi
    simp only [BitVec.getLsbD_setWidth, BitVec.getLsbD_or, BitVec.getLsbD_shiftLeft,
      BitVec.getLsbD_ushiftRight, getLsbD_byteAt, getLsbD_symbolAt]
    interval_cases i <;> simp

/-- A window of a window is a window (R9). -/
theorem extractLsb'_extractLsb' {width start len start' len' : Nat} (v : BitVec width)
    (h : start' + len' ≤ len) :
    (v.extractLsb' start len).extractLsb' start' len' = v.extractLsb' (start + start') len' := by
  apply BitVec.eq_of_getLsbD_eq
  intro i hi
  rw [BitVec.getLsbD_extractLsb', BitVec.getLsbD_extractLsb', BitVec.getLsbD_extractLsb',
    decide_eq_true (show start' + i < len by omega), Bool.true_and, Nat.add_assoc]

/-- The 40 bits of group `g` of four: five bytes (R81), or eight symbols (R85). -/
def groupBits (w : BitVec 160) (g : Nat) : BitVec 40 := w.extractLsb' (120 - 40 * g) 40

theorem lt_four_of_mem_groups {g : Nat} (hg : g ∈ [0, 1, 2, 3]) : g < 4 := by
  revert g
  decide

theorem byteAt_groupBits (w : BitVec 160) {g k : Nat} (hg : g < 4) (hk : k < 5) :
    byteAt (groupBits w g) k = byteAt w (5 * g + k) := by
  rw [byteAt, byteAt, groupBits, extractLsb'_extractLsb' _ (by omega)]
  congr 1
  omega

theorem symbolAt_groupBits (w : BitVec 160) {g k : Nat} (hg : g < 4) (hk : k < 8) :
    symbolAt (groupBits w g) k = symbolAt w (8 * g + k) := by
  rw [symbolAt, symbolAt, groupBits, extractLsb'_extractLsb' _ (by omega)]
  congr 1
  omega

/-! ### The encoder -/

/-- The bytes of the groups are those of the Identifier padded with zero bits (R81). -/
theorem groupByte_identifierBytes (v : Identifier) {g j : Nat} (hg : g < 4) (hj : j < 5) :
    groupByte (identifierBytes v) g j = byteAt (v ++ 0#32) (5 * g + j) := by
  rw [groupByte, groupRem, Config.groupBytes]
  by_cases h : 5 * g + j < 16
  · rw [if_pos (by omega), identifierBytes_getD v h, byteAt_append_left v _ (by omega)]
  · rw [if_neg (by omega), show 5 * g + j = 16 + (5 * g + j - 16) by omega,
      byteAt_append_right v _ rfl (by omega), byteAt, BitVec.extractLsb'_zero]
    rfl

/-- A group's symbols are those of its bits, as many as R81 keeps. -/
theorem encodeGroup_identifierBytes (v : Identifier) {g : Nat} (hg : g < 4) :
    encodeGroup (identifierBytes v) g =
      ((List.range 8).map fun k => symbolAt (v ++ 0#32) (8 * g + k)).take (groupKeep (groupRem g)) := by
  have hbyte (j : Nat) (hj : j < 5) :
      groupByte (identifierBytes v) g j = byteAt (groupBits (v ++ 0#32) g) j := by
    rw [groupByte_identifierBytes v hg hj, byteAt_groupBits _ hg hj]
  rw [encodeGroup, hbyte 0 (by omega), hbyte 1 (by omega), hbyte 2 (by omega), hbyte 3 (by omega),
    hbyte 4 (by omega), windows_byteAt]
  congr 1
  exact List.map_congr_left fun k hk => symbolAt_groupBits _ hg (List.mem_range.1 hk)

/-- R82: the encoder's symbols are the 5-bit windows of `ID ++ 0b00`. -/
theorem encodeSymbols_identifierBytes (v : Identifier) :
    encodeSymbols (identifierBytes v) = (List.range 26).map (symbolAt (v ++ 0#2)) := by
  have hgroups : encodeSymbols (identifierBytes v) = (List.range 26).map (symbolAt (v ++ 0#32)) := by
    rw [encodeSymbols,
      List.flatMap_congr fun g hg => encodeGroup_identifierBytes v (lt_four_of_mem_groups hg)]
    rfl
  have hpad : v ++ 0#32 = (v ++ 0#2) ++ 0#30 := by
    rw [BitVec.append_assoc]
    rfl
  rw [hgroups, hpad]
  refine List.map_congr_left fun k hk => symbolAt_append_left _ _ ?_
  have := List.mem_range.1 hk
  omega

theorem encodeSymbols_getElem? (v : Identifier) {i : Nat} (hi : i < 26) :
    (encodeSymbols (identifierBytes v))[i]? = some (symbolAt (v ++ 0#2) i) := by
  rw [encodeSymbols_identifierBytes]
  simp [hi]

/-- The last symbol is the last three bits of the Identifier and two zero bits (R82). -/
theorem symbolAt_last (v : Identifier) : symbolAt (v ++ 0#2) 25 = v.extractLsb' 0 3 ++ 0#2 := by
  apply BitVec.eq_of_getLsbD_eq
  intro i hi
  rw [getLsbD_symbolAt, BitVec.getLsbD_append, BitVec.getLsbD_append, BitVec.getLsbD_extractLsb']
  by_cases h : i < 2
  · simp [h]
  · simp [hi, h, show i - 2 < 3 by omega]

/-- Cutting the two low bits of 130 and padding with zeros keeps every symbol but the last (R94). -/
theorem symbolAt_truncated (w : BitVec 130) {p : Nat} (hp : p < 25) :
    symbolAt (w.extractLsb' 2 128 ++ 0#2) p = symbolAt w p := by
  rw [symbolAt_append_left _ _ (by omega), symbolAt, extractLsb'_extractLsb' _ (by omega), symbolAt]
  congr 1
  omega

/-- Of the last symbol the two low bits become 0 (R94). -/
theorem symbolAt_truncated_last (w : BitVec 130) :
    symbolAt (w.extractLsb' 2 128 ++ 0#2) 25 = symbolAt w 25 &&& 0x1C := by
  rw [symbolAt_last, extractLsb'_extractLsb' _ (by omega)]
  apply BitVec.eq_of_getLsbD_eq
  intro i hi
  rw [BitVec.getLsbD_append]
  interval_cases i <;> simp [symbolAt]

/-- What the encoders write, character by character (R82 to R84). -/
theorem State.encoded_txt_getElem (s : State) (alphabet : List Byte) (i : Fin 26) :
    (s.encoded alphabet).txt[i] = symbolChar alphabet (symbolAt (s.id ++ 0#2) i.val) := by
  rw [State.encoded_txt, encodeText_getElem, List.getD_eq_getElem?_getD, encodeSymbols_getElem? _ i.isLt,
    Option.getD_some]

theorem exec_dec (s : State) : exec .dec s = .next s.decoded := rfl

theorem exec_encL (s : State) : exec .encL s = .next (s.encoded lowerAlphabet) := rfl

theorem exec_encU (s : State) : exec .encU s = .next (s.encoded upperAlphabet) := rfl

/-- Settles O42: the symbols are the 5-bit windows, and the encoders write their characters. -/
theorem encoderIsTheBitStream : Obligations.EncoderIsTheBitStream := by
  intro v
  refine ⟨by simp [encodeSymbols_identifierBytes], fun i hi => ?_, ?_, ?_, ?_, fun s t i ht => ?_,
    fun s t i ht => ?_⟩
  · rw [encodeSymbols_getElem? v hi, symbolAt, show 130 - 5 * (i + 1) = 125 - 5 * i by omega]
  · rw [encodeSymbols_getElem? v (by omega), symbolAt_append_left v _ (by omega)]
    rfl
  · rw [encodeSymbols_getElem? v (by omega), symbolAt_append_left v _ (by omega)]
    rfl
  · rw [encodeSymbols_getElem? v (by omega), symbolAt_last]
  · obtain rfl := Host.Outcome.next.inj ((exec_encL s).symm.trans ht)
    rw [show 125 - 5 * i.val = 130 - 5 * (i.val + 1) by omega]
    exact s.encoded_txt_getElem lowerAlphabet i
  · obtain rfl := Host.Outcome.next.inj ((exec_encU s).symm.trans ht)
    rw [show 125 - 5 * i.val = 130 - 5 * (i.val + 1) by omega]
    exact s.encoded_txt_getElem upperAlphabet i

/-- An encoder is host writes of the text and its length, with the outcome OK (R83, R84). -/
theorem leavesOk_encoded (s : State) (alphabet : List Byte) :
    LeavesOk ((List.finRange 26).map .txt ++ [.txtLen]) s (s.encoded alphabet) := by
  have h := leavesOk_hostWrites s (((List.finRange 26).map fun i =>
    .txt i (encodeText alphabet s.id)[i]) ++ [.txtLen 26])
  rw [← s.encoded_eq_hostWrites, List.map_append, List.map_map] at h
  exact h

/-- Each character is that of its symbol of R81. -/
theorem State.exists_symbol_encoded (s : State) (alphabet : List Byte) (i : Fin 26) :
    ∃ v, (encodeSymbols (identifierBytes s.id))[i.val]? = some v ∧
      (s.encoded alphabet).txt[i] = symbolChar alphabet v :=
  ⟨_, encodeSymbols_getElem? s.id i.isLt, s.encoded_txt_getElem alphabet i⟩

/-- The last character has one of the eight symbols whose two low bits are 0 (R82). -/
theorem State.encoded_txt_last_mem (s : State) {alphabet cs : List Byte}
    (h : ∀ x : BitVec 3, symbolChar alphabet (x ++ 0#2) ∈ cs) : (s.encoded alphabet).txt[25] ∈ cs := by
  have hlast : (s.encoded alphabet).txt[25] = symbolChar alphabet (symbolAt (s.id ++ 0#2) 25) :=
    s.encoded_txt_getElem alphabet 25
  rw [hlast, symbolAt_last]
  exact h _

theorem State.toList_encoded_txt {s : State} {v : Identifier} (h : s.id = v) {alphabet cs : List Byte}
    (hcs : (encodeText alphabet v).toList = cs) : (s.encoded alphabet).txt.toList = cs := by
  rw [State.encoded_txt, h, hcs]

/-- Any symbol can be the first. -/
theorem exists_encoded_txt_first (alphabet : List Byte) (v : Symbol) :
    ∃ s : State, (s.encoded alphabet).txt[0] = symbolChar alphabet v := by
  refine ⟨State.reset.writeId (v ++ 0#123), (State.encoded_txt_getElem _ _ (0 : Fin 26)).trans ?_⟩
  refine congrArg (symbolChar alphabet) ?_
  rw [State.writeId_id]
  exact (symbolAt_append_left _ _ (by decide)).trans
    ((symbolAt_append_left _ _ (by decide)).trans BitVec.extractLsb'_eq_self)

/-- Folding the text of ENC.L gives the text of ENC.U (R93). -/
theorem State.fold_encoded_lower (s : State) (i : Fin 26) :
    fold (s.encoded lowerAlphabet).txt[i] = (s.encoded upperAlphabet).txt[i] := by
  rw [s.encoded_txt_getElem, s.encoded_txt_getElem, fold_symbolChar_lower]

/-- Settles O34: the laws of encoded texts above, with LOWER. -/
theorem enclWritesTheText : Obligations.EnclWritesTheText := by
  refine ⟨decode_encode .encL, fun s => ⟨rfl, fun _ => ⟨_, exec_encL s, leavesOk_encoded s _,
    s.encoded_txtLen _, s.exists_symbol_encoded _, s.encoded_txt_last_mem (by decide),
    fun h => State.toList_encoded_txt h (by decide),
    fun h => State.toList_encoded_txt (eq_allOnes_of_toNat h) (by decide),
    fun h => State.toList_encoded_txt h (by decide)⟩⟩, fun v => ?_⟩
  obtain ⟨s, hs⟩ := exists_encoded_txt_first lowerAlphabet v
  exact ⟨s, _, exec_encL s, hs⟩

/-- Settles O35: the same laws with UPPER, which folding leaves as it is. -/
theorem encuWritesTheText : Obligations.EncuWritesTheText := by
  refine ⟨decode_encode .encU, fun s => ⟨rfl, fun _ => ⟨_, exec_encU s, leavesOk_encoded s _,
    s.encoded_txtLen _, s.exists_symbol_encoded _, s.encoded_txt_last_mem (by decide),
    fun h => State.toList_encoded_txt h (by decide),
    fun h => State.toList_encoded_txt (eq_allOnes_of_toNat h) (by decide),
    fun h => State.toList_encoded_txt h (by decide), fun tl ht i => ?_⟩⟩, fun v => ?_⟩
  · obtain rfl := Host.Outcome.next.inj ((exec_encL s).symm.trans ht)
    rw [s.fold_encoded_lower, s.encoded_txt_getElem, fold_symbolChar_upper]
  · obtain ⟨s, hs⟩ := exists_encoded_txt_first upperAlphabet v
    exact ⟨s, _, exec_encU s, hs⟩

/-! ### The decoder -/

/-- The bytes of eight symbols are those of their concatenation (R88). -/
theorem chunkBytes_eq_map_byteAt (v0 v1 v2 v3 v4 v5 v6 v7 : Symbol) :
    chunkBytes v0 v1 v2 v3 v4 v5 v6 v7 =
      (List.range 5).map (byteAt (v0 ++ v1 ++ v2 ++ v3 ++ v4 ++ v5 ++ v6 ++ v7 : BitVec 40)) := by
  have h := chunkBytes_symbolAt (v0 ++ v1 ++ v2 ++ v3 ++ v4 ++ v5 ++ v6 ++ v7)
  have hfirst : symbolAt v0 0 = v0 := BitVec.extractLsb'_eq_self
  simp (disch := omega) only [symbolAt_append_last, symbolAt_append_left, hfirst] at h
  exact h

/-- Five bytes taken off a value and put together give it back. -/
theorem byteAt_append_byteAt (u : BitVec 40) :
    byteAt u 0 ++ byteAt u 1 ++ byteAt u 2 ++ byteAt u 3 ++ byteAt u 4 = u := by
  rw [byteAt, byteAt, byteAt, byteAt, byteAt]
  iterate 4 rw [BitVec.extractLsb'_append_extractLsb'_eq_extractLsb' (by rfl)]
  exact BitVec.extractLsb'_eq_self

/-- Settles O43: the 40 bits are `chunkBytes_eq_map_byteAt`, and 8-bit shifts are R88's modulo 256. -/
theorem chunkBytesAreTheConcatenation : Obligations.ChunkBytesAreTheConcatenation := by
  intro v0 v1 v2 v3 v4 v5 v6 v7
  have hjoin := congrArg
    (fun bs : List Byte => bs.getD 0 0 ++ bs.getD 1 0 ++ bs.getD 2 0 ++ bs.getD 3 0 ++ bs.getD 4 0)
    (chunkBytes_eq_map_byteAt v0 v1 v2 v3 v4 v5 v6 v7)
  have hfits (v : Symbol) (k : Nat) : v.toNat >>> k % 256 = v.toNat >>> k :=
    Nat.mod_eq_of_lt (by have := Nat.shiftRight_le v.toNat k; omega)
  have hfits0 (v : Symbol) : v.toNat % 256 = v.toNat := hfits v 0
  refine ⟨_, _, _, _, _, rfl, ?_, ?_, ?_, ?_, ?_, hjoin.trans (byteAt_append_byteAt _)⟩
  all_goals simp [Nat.or_mod_two_pow (n := 8), hfits, hfits0]

theorem symbolStream_append_singleton (vs : List Symbol) (v : Symbol) :
    symbolStream (vs ++ [v]) = (symbolStream vs <<< 5) ||| v.setWidth 130 := by
  simp [symbolStream]

/-- A row of symbols put together, bit by bit: the last symbol is the lowest. -/
theorem getLsbD_symbolStream (vs : List Symbol) {i : Nat} (hi : i < 130) :
    (symbolStream vs).getLsbD i = (vs.reverse.getD (i / 5) 0).getLsbD (i % 5) := by
  induction vs using List.reverseRecOn generalizing i with
  | nil => simp [symbolStream]
  | append_singleton vs v ih =>
    rw [symbolStream_append_singleton, List.reverse_append, List.reverse_singleton, List.singleton_append]
    by_cases h : i < 5
    · simp [hi, h, Nat.div_eq_of_lt h, Nat.mod_eq_of_lt h]
    · have hdiv : i / 5 = (i - 5) / 5 + 1 := by omega
      have hmod : i % 5 = (i - 5) % 5 := by omega
      have hhigh : v.getLsbD i = false := BitVec.getLsbD_of_ge v i (by omega)
      simp [hi, h, hdiv, hmod, hhigh, -BitVec.getLsbD_eq_getElem, ih (show i - 5 < 130 by omega)]

/-- A row of 26 symbols put together and taken apart again. -/
theorem symbolAt_symbolStream {vs : List Symbol} (h : vs.length = 26) {p : Nat} (hp : p < 26) :
    symbolAt (symbolStream vs) p = vs.getD p 0 := by
  apply BitVec.eq_of_getLsbD_eq
  intro i hi
  rw [getLsbD_symbolAt, getLsbD_symbolStream vs (by omega),
    show (130 - 5 * (p + 1) + i) / 5 = 25 - p by omega, show (130 - 5 * (p + 1) + i) % 5 = i by omega]
  simp [hi, h, hp, show 25 - p < 26 by omega, show 26 - 1 - (25 - p) = p by omega]

/-- 130 bits taken apart into 26 symbols and put together again. -/
theorem symbolStream_map_symbolAt (w : BitVec 130) : symbolStream ((List.range 26).map (symbolAt w)) = w := by
  apply BitVec.eq_of_getLsbD_eq
  intro i hi
  rw [getLsbD_symbolStream _ hi]
  have hsymbol : ((List.range 26).map (symbolAt w)).reverse.getD (i / 5) 0 = symbolAt w (25 - i / 5) := by
    simp [show i / 5 < 26 by omega]
  rw [hsymbol, getLsbD_symbolAt, decide_eq_true (show i % 5 < 5 by omega), Bool.true_and,
    show 130 - 5 * (25 - i / 5 + 1) + i % 5 = i by omega]

/-- The values DEC works on, zeros after the 26th, are the symbols of the padded stream (R85). -/
theorem symbolAt_padded_symbolStream {val : List Symbol} (h : val.length = 26) {p : Nat} (hp : p < 32) :
    symbolAt (symbolStream val ++ 0#30) p = val.getD p 0 := by
  by_cases hp26 : p < 26
  · rw [symbolAt_append_left _ _ (by omega), symbolAt_symbolStream h hp26]
  · rw [show p = 26 + (p - 26) by omega, symbolAt_append_right (symbolStream val) _ rfl (by omega), symbolAt,
      BitVec.extractLsb'_zero, List.getD_eq_default _ _ (by omega)]
    rfl

/-- The bytes of a chunk are those of its 40 bits of the padded stream (R88). -/
theorem decodeChunk_eq_map_byteAt {val : List Symbol} (h : val.length = 26) {g : Nat} (hg : g < 4) :
    decodeChunk val g = (List.range 5).map fun k => byteAt (symbolStream val ++ 0#30) (5 * g + k) := by
  have hsymbol (k : Nat) (hk : k < 8) :
      val.getD (8 * g + k) 0 = symbolAt (groupBits (symbolStream val ++ 0#30) g) k := by
    rw [symbolAt_groupBits _ hg hk, symbolAt_padded_symbolStream h (by omega)]
  rw [decodeChunk, hsymbol 1 (by omega), hsymbol 2 (by omega), hsymbol 3 (by omega), hsymbol 4 (by omega),
    hsymbol 5 (by omega), hsymbol 6 (by omega), hsymbol 7 (by omega), ← Nat.add_zero (8 * g),
    hsymbol 0 (by omega), chunkBytes_symbolAt]
  exact List.map_congr_left fun k hk => byteAt_groupBits _ hg (List.mem_range.1 hk)

theorem decodeBytes_eq_map_byteAt {val : List Symbol} (h : val.length = 26) :
    decodeBytes val = (List.range 20).map (byteAt (symbolStream val ++ 0#30)) := by
  rw [decodeBytes, List.flatMap_congr fun g hg => decodeChunk_eq_map_byteAt h (lt_four_of_mem_groups hg)]
  rfl

/-- Sixteen bytes taken off a value and joined are its upper 128 bits. -/
theorem joinBytes_map_byteAt (w : BitVec 160) :
    joinBytes ((List.range 16).map (byteAt w)) = w.extractLsb' 32 128 := by
  apply BitVec.eq_of_getLsbD_eq
  intro i hi
  have hbyte : ((List.range 16).map (byteAt w)).getD (15 - i / 8) 0 = byteAt w (15 - i / 8) := by
    simp [show 15 - i / 8 < 16 by omega]
  rw [getLsbD_joinBytes (by simp) hi, hbyte, getLsbD_byteAt, BitVec.getLsbD_extractLsb',
    show 160 - 8 * (15 - i / 8 + 1) + i % 8 = 32 + i by omega]
  simp [hi, Nat.mod_lt]

/-- R89: the decoded Identifier is the stream without its two last bits. -/
theorem decodeIdentifier_eq_extractLsb' {val : List Symbol} (h : val.length = 26) :
    decodeIdentifier val = (symbolStream val).extractLsb' 2 128 := by
  have htake : (decodeBytes val).take 16 = (List.range 16).map (byteAt (symbolStream val ++ 0#30)) := by
    rw [decodeBytes_eq_map_byteAt h, ← List.map_take]
    rfl
  rw [decodeIdentifier, htake, joinBytes_map_byteAt, BitVec.extractLsb'_append_eq_of_le (by omega)]

/-- Decoding the symbols of an Identifier gives it back (R92). -/
theorem decodeIdentifier_map_symbolAt (v : Identifier) :
    decodeIdentifier ((List.range 26).map (symbolAt (v ++ 0#2))) = v := by
  rw [decodeIdentifier_eq_extractLsb' (by simp), symbolStream_map_symbolAt, BitVec.extractLsb'_append_eq_left]

/-- Only the three upper bits of the last symbol are among the first 128. -/
theorem extractLsb'_symbolStream_append_singleton (vs : List Symbol) (v : Symbol) :
    (symbolStream (vs ++ [v])).extractLsb' 2 128 =
      (symbolStream vs).setWidth 128 <<< 3 ||| (v >>> 2).setWidth 128 := by
  rw [symbolStream_append_singleton]
  apply BitVec.eq_of_getLsbD_eq
  intro i hi
  by_cases h : i < 3
  · simp [hi, h, show 2 + i < 5 by omega, show 2 + i < 128 by omega, show 2 + i < 130 by omega]
  · have hhigh : v.getLsbD (2 + i) = false := BitVec.getLsbD_of_ge v _ (by omega)
    simp [hi, h, hhigh, show ¬2 + i < 5 by omega, show 2 + i < 130 by omega,
      show 2 + i - 5 = i - 3 by omega, show i - 3 < 128 by omega, -BitVec.getLsbD_eq_getElem]

/-- The two low bits of the last symbol are dropped (R90). -/
theorem decodeIdentifier_append_singleton_congr {vs : List Symbol} (h : vs.length = 25) {v w : Symbol}
    (hvw : v >>> 2 = w >>> 2) : decodeIdentifier (vs ++ [v]) = decodeIdentifier (vs ++ [w]) := by
  rw [decodeIdentifier_eq_extractLsb' (by simp [h]), decodeIdentifier_eq_extractLsb' (by simp [h]),
    extractLsb'_symbolStream_append_singleton, extractLsb'_symbolStream_append_singleton, hvw]

theorem decodeIdentifier_set_last (val : Vector Symbol 26) {v : Symbol} (h : v >>> 2 = val[25] >>> 2) :
    decodeIdentifier (val.set 25 v).toList = decodeIdentifier val.toList := by
  have hlast (w : Symbol) : (val.set 25 w).toList = val.toList.take 25 ++ [w] := by
    simp [Vector.toList_set, List.set_eq_take_append_cons_drop]
  rw [hlast, decodeIdentifier_append_singleton_congr (by simp) h, ← hlast, Vector.set_getElem_self]

/-- DEC of a text of valid characters (R85). -/
theorem TextValues.decoded_eq {s : State} {val : Vector Symbol 26} (h : TextValues s val)
    (hlen : s.txtLen = 26) : s.decoded = (s.writeId (decodeIdentifier val.toList)).setStatus .ok := by
  refine State.decoded_of_scan_ok hlen (scanFrom_eq_ok_iff.2 (List.ext_getElem (by simp) fun p hp _ => ?_))
  simp only [List.length_map, Vector.length_toList] at hp
  simpa using h ⟨p, hp⟩

theorem TextValues.decoded_id {s : State} {val : Vector Symbol 26} (h : TextValues s val)
    (hlen : s.txtLen = 26) : s.decoded.id = decodeIdentifier val.toList := by
  rw [h.decoded_eq hlen, State.setStatus_id, State.writeId_id]

theorem TextValues.decoded_status {s : State} {val : Vector Symbol 26} (h : TextValues s val)
    (hlen : s.txtLen = 26) : s.decoded.status = CommandStatus.ok.word := by
  rw [h.decoded_eq hlen, State.setStatus_status]

/-- Settles O44, by `decodeIdentifier_eq_extractLsb'`. -/
theorem decoderKeepsTheTopBitsOfTheStream : Obligations.DecoderKeepsTheTopBitsOfTheStream := by
  intro val
  have hid := decodeIdentifier_eq_extractLsb' val.length_toList
  refine ⟨hid, fun s t hlen hval ht => ?_⟩
  obtain rfl := Host.Outcome.next.inj ((exec_dec s).symm.trans ht)
  rw [hval.decoded_id hlen, hid]

theorem TextValues.not_firstInvalid {s : State} {val : Vector Symbol 26} (h : TextValues s val) (p : Fin 26) :
    ¬FirstInvalid s p := fun hp => by
  have hnone := hp.1
  rw [h p] at hnone
  cases hnone

/-- Settles O36: the three ways DEC ends exclude each other, since a text with values has no invalid
character. -/
theorem decDecodesAValidText : Obligations.DecDecodesAValidText := by
  refine ⟨decode_encode .dec, fun s _ => ⟨_, exec_dec s, fun val hlen hval => ?_, ?_⟩⟩
  · rw [hval.decoded_eq hlen]
    exact ⟨leavesOk_hostWrites s [.id _], State.setStatus_id ..⟩
  · obtain ⟨hlen, heq⟩ | ⟨hlen, p, hp, hbefore, heq⟩ | ⟨hlen, val, hval, -⟩ := s.decoded_cases
    · exact .inl ⟨hlen, heq ▸ kindOf_statusWord ..⟩
    · have hfirst : FirstInvalid s p := ⟨hp, hbefore⟩
      exact .inr (.inl ⟨hlen, ⟨p, hfirst⟩, fun ⟨val, hval⟩ => TextValues.not_firstInvalid hval p hfirst,
        heq ▸ kindOf_statusWord ..⟩)
    · have hvalues : TextValues s val := hval
      exact .inr (.inr ⟨hlen, fun ⟨p, hp⟩ => hvalues.not_firstInvalid p hp, ⟨val, hval⟩,
        hvalues.decoded_status hlen ▸ kindOf_word_ok⟩)

/-! ### Encoding and decoding -/

theorem toList_ofFn_symbolAt (w : BitVec 130) :
    (Vector.ofFn fun i : Fin 26 => symbolAt w i.val).toList = (List.range 26).map (symbolAt w) :=
  List.ext_getElem (by simp) (by simp)

section
variable (s : State) {alphabet : List Byte} (hlookup : ∀ o v, lookup o (symbolChar alphabet v) = some v)
include hlookup

/-- An encoded text has the symbols of the Identifier as values, whatever the parameters (R92). -/
theorem textValues_encoded :
    TextValues (s.encoded alphabet) (Vector.ofFn fun i => symbolAt (s.id ++ 0#2) i.val) := by
  intro p
  rw [State.encoded_txt_getElem, hlookup]
  simp

/-- DEC of an encoded text gives the Identifier back (R92). -/
theorem State.decoded_encoded_id : (s.encoded alphabet).decoded.id = s.id := by
  rw [(textValues_encoded s hlookup).decoded_id (s.encoded_txtLen alphabet), toList_ofFn_symbolAt,
    decodeIdentifier_map_symbolAt]

theorem State.kindOf_decoded_encoded : kindOf (s.encoded alphabet).decoded.status = 0 := by
  rw [(textValues_encoded s hlookup).decoded_status (s.encoded_txtLen alphabet), kindOf_word_ok]

end

/-- Settles O46: every character of both alphabets looks up as its symbol. -/
theorem encodeThenDecodeKeepsTheIdentifier : Obligations.EncodeThenDecodeKeepsTheIdentifier :=
  ⟨fun s _ => ⟨_, _, exec_encL s, exec_dec _, s.decoded_encoded_id lookup_lower,
      s.kindOf_decoded_encoded lookup_lower⟩,
    fun s _ => ⟨_, _, exec_encU s, exec_dec _, s.decoded_encoded_id lookup_upper,
      s.kindOf_decoded_encoded lookup_upper⟩⟩

/-- Settles O47: folding replaces the letters `a` to `z`, and takes LOWER to UPPER symbol by symbol. -/
theorem encodersDifferOnlyInCase : Obligations.EncodersDifferOnlyInCase := by
  refine fun s _ => ⟨_, _, _, _, exec_encL s, exec_encU s,
    fun i => (s.fold_encoded_lower i).symm, exec_dec _, exec_dec _, ?_⟩
  rw [s.decoded_encoded_id lookup_lower, s.decoded_encoded_id lookup_upper]

/-- Replacing the last character replaces the last value. -/
theorem TextValues.writeTxtAt_last {s : State} {val : Vector Symbol 26} (h : TextValues s val) {c : Byte}
    {v : Symbol} (hc : lookup s.params.oAlias c = some v) :
    TextValues (s.writeTxtAt 25 c) (val.set 25 v) := by
  intro p
  by_cases hp : p = 25
  · subst hp
    simpa [State.writeTxtAt] using hc
  · have hne : 25 ≠ p.val := fun e => hp (Fin.ext e.symm)
    simpa [State.writeTxtAt, Vector.getElem_set_ne, hne] using h p

/-- Settles O45: both texts have values, and the values decode alike. -/
theorem decIgnoresTheTwoLastBits : Obligations.DecIgnoresTheTwoLastBits := by
  intro s val c v hlen hval _ hc hv
  have hval' := hval.writeTxtAt_last hc
  refine ⟨_, _, exec_dec s, exec_dec _, ?_⟩
  rw [hval.decoded_id hlen, hval'.decoded_id hlen, hval.decoded_status hlen, hval'.decoded_status hlen]
  exact ⟨decodeIdentifier_set_last val hv, CommandStatus.word_ok, CommandStatus.word_ok⟩

/-- Settles O48: DEC keeps the 128 upper bits of the stream of values, and ENC.L takes their windows. -/
theorem decodeThenEncodeIsCanonical : Obligations.DecodeThenEncodeIsCanonical := by
  intro s val hlen hval _
  have hid : s.decoded.id = (symbolStream val.toList).extractLsb' 2 128 :=
    (hval.decoded_id hlen).trans (decodeIdentifier_eq_extractLsb' val.length_toList)
  have hsymbol (p : Fin 26) : symbolAt (symbolStream val.toList) p.val = val[p] := by
    rw [symbolAt_symbolStream val.length_toList p.isLt]
    simp
  refine ⟨_, _, exec_dec s, exec_encL _, fun p hp => ?_, ?_⟩
  · refine (State.encoded_txt_getElem _ _ p).trans (congrArg (symbolChar lowerAlphabet) ?_)
    rw [hid, symbolAt_truncated _ hp, hsymbol]
  · refine (State.encoded_txt_getElem _ _ (25 : Fin 26)).trans (congrArg (symbolChar lowerAlphabet) ?_)
    rw [hid]
    exact (symbolAt_truncated_last _).trans (congrArg (· &&& 0x1C) (hsymbol 25))

end Sys2Proof.Machine
end

section
/-! The outcomes of commands and of reserved words, and blocks that share nothing (family 60_exceptions.md). -/

namespace Sys2Proof.Machine

/-! ### What a failure leaves -/

/-- Recording an outcome leaves the fields its status word is laid out from, and nothing else (R26, R28). -/
theorem leavesError_setStatus {k : CommandStatus} {kind index : BitVec 3} {char expected : BitVec 8}
    (h : k.word = statusWord kind index char expected) (s : State) :
    LeavesError kind index char expected k.found s (s.setStatus k) := by
  unfold LeavesError
  rw [State.setStatus_status, h]
  exact ⟨kindOf_statusWord .., indexOf_statusWord .., charOf_statusWord .., expectedOf_statusWord ..,
    reservedLow_statusWord .., reservedHigh_statusWord .., rfl, onlyChanges_setStatus s k⟩

/-! ### The outcome codes of the commands -/

/-- DEC's outcome code, by its length: INVALID_LENGTH for another than 26 and never for 26 (R96, R97). -/
theorem State.kindOf_decoded_cases (s : State) :
    (s.txtLen ≠ 26 ∧ kindOf s.decoded.status = 1) ∨
    (s.txtLen = 26 ∧ (kindOf s.decoded.status = 2 ∨ kindOf s.decoded.status = 0)) := by
  obtain ⟨hlen, heq⟩ | ⟨hlen, p, -, -, heq⟩ | ⟨hlen, val, -, heq⟩ := s.decoded_cases <;> rw [heq]
  · exact .inl ⟨hlen, kindOf_statusWord ..⟩
  · exact .inr ⟨hlen, .inl (kindOf_statusWord ..)⟩
  · exact .inr ⟨hlen, .inr kindOf_word_ok⟩

/-- FROMSLICE ends in BYTES_ERROR or OK (R96, R99). -/
theorem State.kindOf_fromSlice_cases (s : State) :
    kindOf s.fromSlice.status = 3 ∨ kindOf s.fromSlice.status = 0 := by
  obtain ⟨-, heq⟩ | ⟨-, heq⟩ := s.fromSlice_cases <;> rw [heq]
  · exact .inl (kindOf_statusWord ..)
  · exact .inr kindOf_word_ok

/-- Settles O21: only DEC and FROMSLICE can fail, and every other command writes the outcome OK. -/
theorem outcomeCodesPerCommand : Obligations.OutcomeCodesPerCommand := by
  intro i s t ht
  obtain rfl := Host.Outcome.next.inj ((exec_eq_next i s).symm.trans ht)
  cases i with
  | dec =>
    change kindOf s.decoded.status ∈ [0, 1, 2]
    obtain ⟨-, h⟩ | ⟨-, h | h⟩ := s.kindOf_decoded_cases <;> simp [h]
  | fromSlice =>
    change kindOf s.fromSlice.status ∈ [0, 3]
    obtain h | h := s.kindOf_fromSlice_cases <;> simp [h]
  | _ => exact List.mem_singleton.2 kindOf_word_ok

/-! ### DEC's failures -/

/-- Settles O38: DEC's scan stops at the first invalid character and records it. -/
theorem decReportsTheFirstInvalidCharacter : Obligations.DecReportsTheFirstInvalidCharacter := by
  intro s p hlen hp hbefore _
  have hfirst : FirstInvalid s p := ⟨hp, hbefore⟩
  refine ⟨_, exec_dec s, ?_⟩
  rw [hfirst.decoded_eq hlen]
  exact leavesError_setStatus rfl s

/-- Settles O37: the length is compared before any character is read, and only that comparison records
INVALID_LENGTH. -/
theorem decRejectsAWrongLength : Obligations.DecRejectsAWrongLength := by
  refine fun s => ⟨fun hlen => ⟨operands_dec_of_length_ne hlen, fun _ => ⟨_, exec_dec s, ?_⟩⟩,
    fun t hlen ht => ?_⟩
  · rw [State.decoded_of_length_ne hlen]
    exact leavesError_setStatus rfl s
  · obtain rfl := Host.Outcome.next.inj ((exec_dec s).symm.trans ht)
    obtain ⟨hne, -⟩ | ⟨-, h | h⟩ := s.kindOf_decoded_cases
    · exact absurd hlen hne
    · simp [h]
    · simp [h]

/-! ### Reserved words -/

/-- A word that is none of the opcode map's ten is refused by the decoder (R56, R58). -/
theorem exists_decode_eq_error {w : BitVec 8}
    (h : w ∉ [0x01#8, 0x11#8, 0x02#8, 0x03#8, 0x04#8, 0x05#8, 0x06#8, 0x07#8, 0x08#8, 0x09#8]) :
    ∃ e, decode w = .error e := by
  cases hw : decode w with
  | error e => exact ⟨e, rfl⟩
  | ok i =>
    obtain rfl := eq_encode_of_decode_eq_ok hw
    cases i <;> exact absurd (by decide) h

/-- A reserved word reads no register (R100). -/
theorem registersRead_issue_of_decode_eq_error {w : BitVec 8} {e : ReservedWord}
    (h : decode w = .error e) (s : State) : registersRead (.issue w) s = [] := by
  simp [registersRead, h]

/-- Settles O4: the decoder refuses the word, so the block records it, and no register is read that could be
unwritten. -/
theorem reservedWordIsIllegalCommand : Obligations.ReservedWordIsIllegalCommand := by
  intro w s hw
  obtain ⟨e, he⟩ := exists_decode_eq_error hw
  have hnext : perform (.issue w) s = .next (s.setStatus (.illegalCommand w)) :=
    issue_of_decode_eq_error he s
  have hread : s.firstUnwritten (registersRead (.issue w) s) = none := by
    rw [registersRead_issue_of_decode_eq_error he]
    rfl
  exact ⟨_, hnext, modelPerform_eq_next_iff.2 ⟨hread, hnext⟩, leavesError_setStatus rfl s⟩

/-! ### Several blocks -/

/-- A system's step at a place is the step of the block there, put back in its place (R108). -/
theorem System.stepAt_eq_next {k : Nat} {sys : System} {s t : State} (hs : sys[k]? = some s)
    (ht : step s = .next t) : System.stepAt k sys = .next (sys.set k t) := by
  have ht : nextInput s = .next t := ht
  simp [System.stepAt, hs, ht]

/-- Settles O55: the step sets the one place of the list. -/
theorem instancesShareNothing : Obligations.InstancesShareNothing := by
  intro k sys s t hs ht
  obtain ⟨hk, -⟩ := List.getElem?_eq_some_iff.1 hs
  exact ⟨_, System.stepAt_eq_next hs ht, List.getElem?_set_self hk, List.length_set,
    fun j hj => List.getElem?_set_ne hj.symm⟩

end Sys2Proof.Machine
end

section
/-! What the host reads after reset (family 70_reset_and_hazards.md). -/

namespace Sys2Proof.Machine

/-- Reset leaves the status of a command that succeeded (R33). -/
theorem status_resetWith (p : Config.Params) : (State.resetWith p).status = CommandStatus.ok.word :=
  CommandStatus.word_ok.symm

/-- A run that only reads a register ends in the state after reset with the value read recorded (R121). -/
theorem runFromReset_read (p : Config.Params) (r : PortReg) :
    runFromReset p [.read r] = .next ((State.resetWith p).recordRead ((State.resetWith p).read r)) :=
  runInputs_singleton (.read r) _

/-- Settles O13: reset leaves the status of success, and the one value recorded is that status word. -/
theorem statusReadsOkAfterReset : Obligations.StatusReadsOkAfterReset := by
  intro p
  have hkind : kindOf (State.resetWith p).status = 0 := by
    rw [status_resetWith, kindOf_word_ok]
  have hreads : ((State.resetWith p).recordRead ((State.resetWith p).read .status)).reads = [.status 0] :=
    State.recordRead_reads ..
  exact ⟨hkind, _, runFromReset_read p .status, hreads⟩

end Sys2Proof.Machine
end
